-- ==== Sys2Proof/Syntax.lean ====
section
/-! DEFINITION. The fourteen commands, one constructor per row of spec/opcode_table.json (30_encoding.md R74). -/

namespace Sys2Proof

/-- A command of the engine. `addkey` carries the round-key slice index, an unsigned 8-bit immediate used as
a natural number (30_encoding.md R73); no other command has an operand. -/
inductive Instr where
  | nop
  | expand
  | encrypt
  | decrypt
  | sub
  | isub
  | shl
  | shr
  | mix
  | imix
  | xpose
  | addkey (n : Nat)
  | dbl
  | reset
deriving DecidableEq, Repr

end Sys2Proof
end

