-- ==== Sys2Proof/WellFormed.lean ====
section
/-! DEFINITION. The check on a command as syntax: what 30_encoding.md R72 and R73 admit. -/

namespace Sys2Proof

/-- The immediate of `ADDKEY` is one of the values 0..255 (30_encoding.md R72, R80); every other command is
well-formed as it stands. -/
abbrev Instr.wellFormed (i : Instr) : Prop :=
  match i with
  | .addkey n => n ≤ 255
  | .nop | .expand | .encrypt | .decrypt | .sub | .isub | .shl | .shr | .mix | .imix | .xpose | .dbl
  | .reset => True

end Sys2Proof
end

