-- ==== Sys2Proof/Word.lean ====
section
/-! DEFINITION. Bytes, 32-bit register values, and the fixed-size sequences of the spec: a word of 4
bytes, a block of 16 bytes, a 4 by 4 matrix (00_scope.md R12 to R14, 10_state.md R22). -/

namespace Sys2Proof

/-- A byte, 0..255 (00_scope.md R12). -/
abbrev Byte := BitVec 8

/-- The value of a 32-bit register (00_scope.md R13). -/
abbrev Reg32 := BitVec 32

/-- A word: exactly four bytes `[b0, b1, b2, b3]`, `b0` the first byte (00_scope.md R12).
It is never treated as a number inside the engine (20_memory.md R55). -/
structure Word4 where
  b0 : Byte
  b1 : Byte
  b2 : Byte
  b3 : Byte
deriving DecidableEq, Repr

namespace Word4

/-- Element `j` of a word. -/
def get (w : Word4) (j : Fin 4) : Byte :=
  match j with
  | 0 => w.b0
  | 1 => w.b1
  | 2 => w.b2
  | 3 => w.b3

/-- The word whose element `j` is `f j`. -/
def ofFn (f : Fin 4 → Byte) : Word4 := ⟨f 0, f 1, f 2, f 3⟩

def zero : Word4 := ⟨0, 0, 0, 0⟩

/-- Apply a byte function to each byte. -/
def map (f : Byte → Byte) (w : Word4) : Word4 := ⟨f w.b0, f w.b1, f w.b2, f w.b3⟩

/-- Exclusive-or of two words, byte by byte (00_scope.md R12). -/
def xor (v w : Word4) : Word4 :=
  ⟨v.b0 ^^^ w.b0, v.b1 ^^^ w.b1, v.b2 ^^^ w.b2, v.b3 ^^^ w.b3⟩

end Word4

/-- A block: 16 bytes, kept as four words; byte `k` is byte `k mod 4` of word `k div 4`
(10_state.md R22, R39). -/
structure Block where
  w0 : Word4
  w1 : Word4
  w2 : Word4
  w3 : Word4
deriving DecidableEq, Repr

namespace Block

/-- Word `i` of a block: bytes `4*i .. 4*i+3`. -/
def word (b : Block) (i : Fin 4) : Word4 :=
  match i with
  | 0 => b.w0
  | 1 => b.w1
  | 2 => b.w2
  | 3 => b.w3

/-- Replace word `i` of a block. -/
def setWord (b : Block) (i : Fin 4) (v : Word4) : Block :=
  match i with
  | 0 => ⟨v, b.w1, b.w2, b.w3⟩
  | 1 => ⟨b.w0, v, b.w2, b.w3⟩
  | 2 => ⟨b.w0, b.w1, v, b.w3⟩
  | 3 => ⟨b.w0, b.w1, b.w2, v⟩

/-- Byte `k` of a block. -/
def get (b : Block) (k : Fin 16) : Byte :=
  (b.word ⟨k.val / 4, by omega⟩).get ⟨k.val % 4, by omega⟩

/-- The block whose byte `k` is `f k`. -/
def ofFn (f : Fin 16 → Byte) : Block :=
  ⟨⟨f 0, f 1, f 2, f 3⟩, ⟨f 4, f 5, f 6, f 7⟩, ⟨f 8, f 9, f 10, f 11⟩, ⟨f 12, f 13, f 14, f 15⟩⟩

def zero : Block := ⟨.zero, .zero, .zero, .zero⟩

/-- Apply a byte function to each of the 16 bytes. -/
def map (f : Byte → Byte) (b : Block) : Block :=
  ⟨b.w0.map f, b.w1.map f, b.w2.map f, b.w3.map f⟩

/-- The 16 bytes in order. -/
def toList (b : Block) : List Byte :=
  [b.w0.b0, b.w0.b1, b.w0.b2, b.w0.b3, b.w1.b0, b.w1.b1, b.w1.b2, b.w1.b3,
   b.w2.b0, b.w2.b1, b.w2.b2, b.w2.b3, b.w3.b0, b.w3.b1, b.w3.b2, b.w3.b3]

end Block

/-- A matrix: 4 rows of 4 bytes, never ragged (00_scope.md R14, 10_state.md R22). -/
structure Mat4 where
  r0 : Word4
  r1 : Word4
  r2 : Word4
  r3 : Word4
deriving DecidableEq, Repr

namespace Mat4

/-- Row `i` of a matrix, as a word. -/
def row (m : Mat4) (i : Fin 4) : Word4 :=
  match i with
  | 0 => m.r0
  | 1 => m.r1
  | 2 => m.r2
  | 3 => m.r3

/-- `M[i][j]`: row `i`, column `j`. -/
def get (m : Mat4) (i j : Fin 4) : Byte := (m.row i).get j

/-- The matrix whose entry `[i][j]` is `f i j`. -/
def ofFn (f : Fin 4 → Fin 4 → Byte) : Mat4 :=
  ⟨.ofFn (f 0), .ofFn (f 1), .ofFn (f 2), .ofFn (f 3)⟩

/-- Apply a word function to each row. -/
def mapRows (f : Word4 → Word4) (m : Mat4) : Mat4 := ⟨f m.r0, f m.r1, f m.r2, f m.r3⟩

/-- Exclusive-or of two matrices, entry by entry (00_scope.md R12). -/
def xor (m k : Mat4) : Mat4 :=
  ⟨m.r0.xor k.r0, m.r1.xor k.r1, m.r2.xor k.r2, m.r3.xor k.r3⟩

end Mat4

end Sys2Proof
end

