-- ==== Sys2Proof/Decode.lean ====
section
/-! DEFINITION. Decoding a 32-bit command word, total on all words, rejecting by name (30_encoding.md R70 to
R77), and after it the encoder. -/

namespace Sys2Proof

/-- Why a word is no legal command (30_encoding.md R75). All three end in `E_CMD` (60_exceptions.md R251);
the names are the model's own (log entry 16). -/
inductive Illegal where
  /-- Bits 31:16 are not zero. -/
  | reservedBits
  /-- A format-Z word whose bits 7:0 are not zero. -/
  | lowByte
  /-- An opcode that 30_encoding.md R74 does not define. -/
  | opcode
deriving DecidableEq, Repr

/-- `c[31:16]` (30_encoding.md R70). -/
def rsvField (c : Reg32) : BitVec 16 := c.extractLsb' 16 16

/-- `c[15:8]` (30_encoding.md R70). -/
def opcodeField (c : Reg32) : BitVec 8 := c.extractLsb' 8 8

/-- `c[7:0]` (30_encoding.md R70). -/
def lowField (c : Reg32) : BitVec 8 := c.extractLsb' 0 8

/-- The format-Z opcodes (30_encoding.md R74, R76). -/
def decodeZ (opcode : BitVec 8) : Except Illegal Instr :=
  match opcode.toNat with
  | 0x00 => .ok .nop
  | 0x01 => .ok .expand
  | 0x02 => .ok .encrypt
  | 0x03 => .ok .decrypt
  | 0x10 => .ok .sub
  | 0x11 => .ok .isub
  | 0x12 => .ok .shl
  | 0x13 => .ok .shr
  | 0x14 => .ok .mix
  | 0x15 => .ok .imix
  | 0x16 => .ok .xpose
  | 0x18 => .ok .dbl
  | 0xFF => .ok .reset
  | _ => .error .opcode

/-- `Decode(c)` (30_encoding.md R76): the reserved bits first, then `ADDKEY`, then the low byte, then the
opcode. -/
def decode (c : Reg32) : Except Illegal Instr :=
  if rsvField c ≠ 0 then .error .reservedBits
  else if opcodeField c = 0x17 then .ok (.addkey (lowField c).toNat)
  else if lowField c ≠ 0 then .error .lowByte
  else decodeZ (opcodeField c)

/-- The opcode of a command (30_encoding.md R74). -/
def opcodeOf : Instr → BitVec 8
  | .nop => 0x00
  | .expand => 0x01
  | .encrypt => 0x02
  | .decrypt => 0x03
  | .sub => 0x10
  | .isub => 0x11
  | .shl => 0x12
  | .shr => 0x13
  | .mix => 0x14
  | .imix => 0x15
  | .xpose => 0x16
  | .addkey _ => 0x17
  | .dbl => 0x18
  | .reset => 0xFF

/-- The low byte of a command: the immediate in format I, zero in format Z (30_encoding.md R70). DESIGN CHOICE: of an
immediate above 255, which is no legal command, the low eight bits (log entry 20). -/
def lowOf : Instr → BitVec 8
  | .addkey n => BitVec.ofNat 8 n
  | .nop | .expand | .encrypt | .decrypt | .sub | .isub | .shl | .shr | .mix | .imix | .xpose | .dbl
  | .reset => 0

/-- `Encode` (30_encoding.md R76): reserved bits zero, then the opcode, then the low byte. The spec defines it on legal
commands; what it gives for `ADDKEY n` with `n > 255` is the model's choice (log entry 20). -/
def encode (i : Instr) : Reg32 := (0 : BitVec 16) ++ opcodeOf i ++ lowOf i

/-- A row of the opcode map: a word `c` selects it when `c & mask = match` (30_encoding.md R74). -/
structure OpcodeRow where
  pattern : Reg32
  mask : Reg32
  /-- The command the row stands for, given the word's low byte. -/
  command : Nat → Instr

/-- The opcode map of 30_encoding.md R74, row by row. -/
def opcodeRows : List OpcodeRow :=
  [⟨0x00000000, 0xFFFFFFFF, fun _ => .nop⟩,
   ⟨0x00000100, 0xFFFFFFFF, fun _ => .expand⟩,
   ⟨0x00000200, 0xFFFFFFFF, fun _ => .encrypt⟩,
   ⟨0x00000300, 0xFFFFFFFF, fun _ => .decrypt⟩,
   ⟨0x00001000, 0xFFFFFFFF, fun _ => .sub⟩,
   ⟨0x00001100, 0xFFFFFFFF, fun _ => .isub⟩,
   ⟨0x00001200, 0xFFFFFFFF, fun _ => .shl⟩,
   ⟨0x00001300, 0xFFFFFFFF, fun _ => .shr⟩,
   ⟨0x00001400, 0xFFFFFFFF, fun _ => .mix⟩,
   ⟨0x00001500, 0xFFFFFFFF, fun _ => .imix⟩,
   ⟨0x00001600, 0xFFFFFFFF, fun _ => .xpose⟩,
   ⟨0x00001700, 0xFFFFFF00, fun n => .addkey n⟩,
   ⟨0x00001800, 0xFFFFFFFF, fun _ => .dbl⟩,
   ⟨0x0000FF00, 0xFFFFFFFF, fun _ => .reset⟩]

/-- A word selects a row (30_encoding.md R74). -/
def OpcodeRow.selects (r : OpcodeRow) (c : Reg32) : Prop := c &&& r.mask = r.pattern

/-- The command the decoder reads from a word of the opcode table, `nbits` of it given and the bits above
zero; a command is one 32-bit word, so a value that does not fit 32 bits is none. -/
def decodeTableWord (nbits w : Nat) : Option Instr :=
  if w % 2 ^ nbits < 2 ^ 32 then
    match decode (BitVec.ofNat 32 (w % 2 ^ nbits)) with
    | .ok i => some i
    | .error _ => none
  else none

end Sys2Proof
end

