-- ==== Sys2Proof/Config.lean ====
section
/-! DEFINITION. What an implementation fixes (the two size parameters and the three tables, 00_scope.md
R9, R10) and the free values the spec leaves open (93_implementation_defined.md V1, V9). -/

namespace Sys2Proof

/-- The implementation parameters (00_scope.md R9): the largest key length in words and the largest round
count. They are held in State as the constant the `PARAMS` register shows (log entry 1). -/
structure Params where
  nkMax : Nat
  rMax : Nat
deriving DecidableEq, Repr

namespace Params

/-- The constraints of 00_scope.md R9. -/
abbrev ok (p : Params) : Prop := 1 ≤ p.nkMax ∧ p.nkMax ≤ 64 ∧ 1 ≤ p.rMax ∧ p.rMax ≤ 63

/-- The reference instance of 00_scope.md R9. -/
def reference : Params := ⟨16, 63⟩

/-- Depth of the schedule RAM: `W_DEPTH = 4*(R_MAX+1)` words (00_scope.md R9). -/
def wDepth (p : Params) : Nat := 4 * (p.rMax + 1)

end Params

/-- The three ROM tables, each 16 rows of 16 bytes, row the high nibble of the address (20_memory.md R50
to R52). Configuration, not state (00_scope.md R10, 10_state.md R42): the cipher functions take them as an
argument, so that a claim can name the property of the tables it rests on. -/
structure Tables where
  sbox : List (List Byte)
  isbox : List (List Byte)
  rcon : List (List Byte)
deriving DecidableEq, Repr

/-- FREE VALUE (93_implementation_defined.md V1): what the `n`-th draw of a read of `SW[i]` or `WDATA`
while `BUSY = 1` returns (20_memory.md R56; log entry 7). -/
opaque Config.busyRead : Nat → Reg32

/-- FREE VALUE (93_implementation_defined.md V9): how many host actions come before `CoreStep` after an
accepted `CMD` write, a finite number (70_reset_and_hazards.md R292; log entry 6). -/
opaque Config.coreLag : Nat → Nat

end Sys2Proof
end

