-- ==== Sys2Proof/Machine/State.lean ====
section
/-! DEFINITION. The state of the machine as plain data (10_state.md R20 to R44), the host's actions, the
faults and refusals, and the state after reset. -/

namespace Sys2Proof.Machine

/-- The error codes of the 4-bit field `ERRCODE` (60_exceptions.md R250); codes 6 to 15 are never produced,
so they have no constructor. -/
inductive ErrCode where
  /-- 0: the last command completed without error, or none has completed. -/
  | eNone
  /-- 1: illegal command word (R251). -/
  | eCmd
  /-- 2: malformed key length (R252). -/
  | eKeylen
  /-- 3: invalid round count (R253). -/
  | eRounds
  /-- 4: key or round count beyond this instance (R254). -/
  | eRange
  /-- 5: round-key slice index beyond the schedule (R255). -/
  | eIndex
deriving DecidableEq, Repr

/-- The width of a host access. The port carries 32-bit accesses only (20_memory.md R59). -/
inductive AccessSize where
  | byte
  | half
  | word
deriving DecidableEq, Repr

/-- What the host can do (10_state.md R20, 30_encoding.md R80, 70_reset_and_hazards.md R280). -/
inductive HostAction where
  /-- `RD`: read the register at a byte offset. -/
  | read (size : AccessSize) (offset : Nat)
  /-- `WR`: write the register at a byte offset. -/
  | write (size : AccessSize) (offset : Nat) (value : Reg32)
  /-- `WAIT`: read `STATUS` until `BUSY` reads 0. -/
  | wait
  /-- Assert the reset input `rst`. -/
  | rst
deriving DecidableEq, Repr

/-- The state. The first fifteen fields are the spec's, under the spec's names (INVENTORY.md, State); the
last four are the model's own. -/
structure State where
  /-- The implementation parameters `NK_MAX`, `R_MAX`, which `PARAMS` shows (00_scope.md R9, 10_state.md
  R38); nothing writes them. -/
  params : Params
  /-- The block register (10_state.md R22). -/
  S : Block
  /-- The key buffer, `4*NK_MAX` bytes (10_state.md R23). -/
  KEY : List Byte
  /-- The key length in bytes, as written (10_state.md R23, R34). -/
  KEYLEN : Reg32
  /-- The round count, as written (10_state.md R25, R35). -/
  ROUNDS : Reg32
  /-- The schedule read index (10_state.md R36). -/
  WIDX : Reg32
  /-- The schedule RAM, `4*(R_MAX+1)` words (10_state.md R26). -/
  W : List Word4
  /-- The schedule tag (10_state.md R27). -/
  KS_VALID : Bool
  KS_NK : BitVec 8
  KS_R : BitVec 8
  /-- The status flags (10_state.md R29). -/
  BUSY : Bool
  DONE : Bool
  ESTICKY : Bool
  ERRCODE : ErrCode
  /-- The latched command word (10_state.md R30). -/
  CMDR : Reg32
  /-- MODEL'S OWN: the pending host actions, oldest first (log entry 5). -/
  script : List HostAction
  /-- MODEL'S OWN: what host reads returned, as (offset, value), oldest first (log entry 5). -/
  log : List (Nat × Reg32)
  /-- MODEL'S OWN: how many host actions may still come before the core's step (log entry 6). -/
  lag : Nat
  /-- MODEL'S OWN: how many free values have been drawn (log entry 7). -/
  draws : Nat
deriving DecidableEq, Repr

/-- Faults of the machine: none. An engine error is a defined outcome of a step, and the engine has no stuck
state (60_exceptions.md R276), so no constructor exists. -/
inductive Fault where
deriving DecidableEq, Repr

/-- Refusals: what the model gives no meaning. -/
inductive Refusal where
  /-- A command that has no meaning in this model yet, by its mnemonic. Raised by nothing: every command has
  its meaning. Safe. -/
  | notModelled (mnemonic : String)
  /-- A host access that the port cannot express: a narrow access, a misaligned offset, an offset above
  0x1FC (20_memory.md R59, 93_implementation_defined.md V7). Raised by the host's turn of a step. Safe. -/
  | portCannotExpress (size : AccessSize) (offset : Nat)
deriving DecidableEq, Repr

/-- The outcome of one step of this machine. -/
abbrev Outcome := Host.Outcome State Fault Refusal

/-- The state after reset of an instance with parameters `p` (10_state.md R44). `W` and `CMDR`, which the
spec leaves unspecified there, hold zero (DESIGN CHOICE, log entries 2 and 3); the model's own fields are
empty (log entries 5 to 7). -/
def State.resetOf (p : Params) : State where
  params := p
  S := .zero
  KEY := List.replicate (4 * p.nkMax) 0
  KEYLEN := 0
  ROUNDS := 0
  WIDX := 0
  W := List.replicate p.wDepth .zero
  KS_VALID := false
  KS_NK := 0
  KS_R := 0
  BUSY := false
  DONE := false
  ESTICKY := false
  ERRCODE := .eNone
  CMDR := 0
  script := []
  log := []
  lag := 0
  draws := 0

/-- The machine right after reset: the reference instance (00_scope.md R9, log entry 1) in the reset state
of 10_state.md R44. -/
def State.reset : State := State.resetOf Params.reference

end Sys2Proof.Machine
end

