-- ==== Sys2Proof/Machine/Flags.lean ====
section
/-! DEFINITION. The flags: how a command sets them, what an accepted `CMD` write does to them, and the
layout of `STATUS` (10_state.md R29, R32, R33, 30_encoding.md R78). There are no arithmetic condition codes. -/

namespace Sys2Proof.Machine

/-- The 4-bit code of an error (60_exceptions.md R250). -/
def errBits : ErrCode → BitVec 4
  | .eNone => 0
  | .eCmd => 1
  | .eKeylen => 2
  | .eRounds => 3
  | .eRange => 4
  | .eIndex => 5

/-- The end of a command that succeeded: `ERRCODE <- 0`, `BUSY <- 0`, `DONE <- 1` (30_encoding.md R78). DESIGN
CHOICE: `CMDR`, which may hold any value from here on, keeps the command word (log entry 18). -/
def completeOk (s : State) : State := { s with ERRCODE := .eNone, BUSY := false, DONE := true }

/-- One bit of a flag. -/
def flagBit (b : Bool) : BitVec 1 := BitVec.ofBool b

/-- `STATUS`, from bit 31 down: zero, `KS_R`, `KS_NK`, `ERRCODE`, `ESTICKY`, `KS_VALID`, `DONE`, `BUSY`
(10_state.md R33). -/
def statusWord (s : State) : Reg32 :=
  (0 : BitVec 8) ++ s.KS_R ++ s.KS_NK ++ errBits s.ERRCODE ++ flagBit s.ESTICKY ++ flagBit s.KS_VALID ++
    flagBit s.DONE ++ flagBit s.BUSY

end Sys2Proof.Machine
end

