-- ==== Sys2Proof/Machine/Operands.lean ====
section
/-! DEFINITION. Operands of host accesses: what the host port can express and the register map of 10_state.md
R31. (A command's one operand, the immediate of `ADDKEY`, is in the command itself, 30_encoding.md R73.) -/

namespace Sys2Proof.Machine

/-- The registers of the map (10_state.md R31). -/
inductive Reg where
  | cmd
  | status
  | keylen
  | rounds
  | widx
  | wdata
  | params
  | sw (i : Fin 4)
  | keyw (j : Nat)
  | reserved
deriving DecidableEq, Repr

/-- The port carries a 32-bit access at a multiple of 4 up to 0x1FC and nothing else (20_memory.md R59). -/
def portExpresses (size : AccessSize) (offset : Nat) : Bool :=
  decide (size = .word ∧ offset % 4 = 0 ∧ offset ≤ 0x1FC)

/-- The register at an offset of the map (10_state.md R31); `KEYW[j]` exists for `j < NK_MAX`, and every
offset without a name is reserved (10_state.md R41). -/
def regAt (p : Params) (offset : Nat) : Reg :=
  if offset = 0x000 then .cmd
  else if offset = 0x004 then .status
  else if offset = 0x008 then .keylen
  else if offset = 0x00C then .rounds
  else if offset = 0x010 then .widx
  else if offset = 0x014 then .wdata
  else if offset = 0x018 then .params
  else if 0x020 ≤ offset ∧ offset < 0x030 then .sw (Fin.ofNat 4 ((offset - 0x020) / 4))
  else if 0x100 ≤ offset ∧ offset < 0x100 + 4 * p.nkMax then .keyw ((offset - 0x100) / 4)
  else .reserved

/-- The offset of a register (10_state.md R31); a reserved register stands for 0x01C. -/
def offsetOf : Reg → Nat
  | .cmd => 0x000
  | .status => 0x004
  | .keylen => 0x008
  | .rounds => 0x00C
  | .widx => 0x010
  | .wdata => 0x014
  | .params => 0x018
  | .sw i => 0x020 + 4 * i.val
  | .keyw j => 0x100 + 4 * j
  | .reserved => 0x01C

end Sys2Proof.Machine
end

