-- ==== Sys2Proof/Machine/Schedule.lean ====
section
/-! DEFINITION. The key schedule as a pure function, for every `Nk >= 1` and every round count
(42_key_schedule.md R161 to R167). -/

namespace Sys2Proof.Machine

/-- `KeyWords(key)[j] = [key[4*j], .., key[4*j+3]]` (42_key_schedule.md R161), for a key of `4*Nk` bytes. DESIGN
CHOICE: of any other length the last one to three bytes are dropped (log entry 19). -/
def keyWords : List Byte → List Word4
  | a :: b :: c :: d :: rest => ⟨a, b, c, d⟩ :: keyWords rest
  | _ => []

/-- `RotWord([b0, b1, b2, b3]) = [b1, b2, b3, b0]` (42_key_schedule.md R162). -/
def rotWord (w : Word4) : Word4 := ⟨w.b1, w.b2, w.b3, w.b0⟩

/-- `SubWord(w)`: each byte through the forward S-box (42_key_schedule.md R162). -/
def subWord (T : Tables) (w : Word4) : Word4 := w.map (subByte T)

/-- `AddRcon(w, j)`: the round constant onto the first byte only (42_key_schedule.md R162,
40_field_and_tables.md R109). -/
def addRcon (T : Tables) (w : Word4) (j : Nat) : Word4 := { w with b0 := w.b0 ^^^ roundConstant T j }

/-- What becomes of the previous word `t` at word index `i`: the three branches of 42_key_schedule.md R163,
R165. -/
def scheduleCore (T : Tables) (nk i : Nat) (t : Word4) : Word4 :=
  if i % nk = 0 then addRcon T (subWord T (rotWord t)) (i / nk)
  else if nk > 6 ∧ i % nk = 4 then subWord T t
  else t

/-- The word that follows the schedule words `w` (42_key_schedule.md R163): its index is `i = len(w)`, made
from `w[i-1]` and `w[i-Nk]`. -/
def nextWord (T : Tables) (nk : Nat) (w : List Word4) : Word4 :=
  (scheduleCore T nk w.length (w.getD (w.length - 1) .zero)).xor (w.getD (w.length - nk) .zero)

/-- Append `n` words to a schedule, one at a time in increasing index (42_key_schedule.md R163). -/
def extendSchedule (T : Tables) (nk : Nat) : Nat → List Word4 → List Word4
  | 0, w => w
  | n + 1, w => extendSchedule T nk n (w ++ [nextWord T nk w])

/-- `Expand(key, R)`: `L = 4*(R+1)` words, the first `Nk` of them the key's (42_key_schedule.md R163), for a key of
`4*Nk` bytes with `Nk >= 1`, `R >= 1` and `4*(R+1) >= Nk`. DESIGN CHOICE: outside this domain the same recurrence
runs as far as it goes (log entry 19). -/
def expand (T : Tables) (key : List Byte) (R : Nat) : List Word4 :=
  extendSchedule T (key.length / 4) (4 * (R + 1) - key.length / 4) (keyWords key)

end Sys2Proof.Machine
end

