-- ==== Sys2Proof/Machine/Field.lean ====
section
/-! DEFINITION. The multiply-by-two unit of GF(2^8) (40_field_and_tables.md R90 to R92), and the derived
functions that the spec uses to say what the transforms and the S-box equal (R94, R100). -/

namespace Sys2Proof.Machine

/-- `Double(a)`: shift left by one, and fold the shifted-out bit back as 0x1B (40_field_and_tables.md R90). -/
def double (a : Byte) : Byte := (a <<< 1) ^^^ (if a.getLsbD 7 then 0x1B else 0x00)

/-- `Double` applied `k` times. -/
def doubleN : Nat → Byte → Byte
  | 0, a => a
  | k + 1, a => double (doubleN k a)

/-- The term of bit `k` in `GFMul(a, b)`. -/
def gfTerm (a b : Byte) (k : Nat) : Byte := if b.getLsbD k then doubleN k a else 0

/-- `GFMul(a, b)`: the exclusive-or of `Double^k(a)` over the bits `k` set in `b` (40_field_and_tables.md
R94). No unit of the engine computes it. -/
def gfMul (a b : Byte) : Byte :=
  gfTerm a b 0 ^^^ gfTerm a b 1 ^^^ gfTerm a b 2 ^^^ gfTerm a b 3 ^^^
  gfTerm a b 4 ^^^ gfTerm a b 5 ^^^ gfTerm a b 6 ^^^ gfTerm a b 7

/-- `Affine(b)`, the formula the S-box contents come from (40_field_and_tables.md R100). -/
def affine (b : Byte) : Byte :=
  b ^^^ b.rotateLeft 1 ^^^ b.rotateLeft 2 ^^^ b.rotateLeft 3 ^^^ b.rotateLeft 4 ^^^ 0x63

end Sys2Proof.Machine
end

