-- ==== Sys2Proof/Machine/Transforms.lean ====
section
/-! DEFINITION. The transforms on the state matrix, each a pure function (00_scope.md R16) with the transpose
it carries (41_state_transforms.md R120 to R148, 40_field_and_tables.md R101, R105). -/

namespace Sys2Proof.Machine

/-- `ToMatrix(b)[i][j] = b[4*i + j]` (41_state_transforms.md R120). -/
def toMatrix (b : Block) : Mat4 := .ofFn fun i j => b.get ⟨4 * i.val + j.val, by omega⟩

/-- `ToBlock(M)[4*i + j] = M[i][j]` (41_state_transforms.md R121). -/
def toBlock (m : Mat4) : Block := .ofFn fun k => m.get ⟨k.val / 4, by omega⟩ ⟨k.val % 4, by omega⟩

/-- `Transpose(M)[i][j] = M[j][i]` (41_state_transforms.md R122). -/
def transpose (m : Mat4) : Mat4 := .ofFn fun i j => m.get j i

/-- `SubBytes(M)[i][j] = SBOX[M[i][j]]` (40_field_and_tables.md R101). -/
def subBytes (T : Tables) (m : Mat4) : Mat4 := m.mapRows (·.map (subByte T))

/-- `InvSubBytes(M)[i][j] = ISBOX[M[i][j]]` (40_field_and_tables.md R105). -/
def invSubBytes (T : Tables) (m : Mat4) : Mat4 := m.mapRows (·.map (invSubByte T))

/-- `RotRowsLeft(M)[i][j] = M[i][(j + i) mod 4]` (41_state_transforms.md R124); addition of `Fin 4` is
modulo 4. -/
def rotRowsLeft (m : Mat4) : Mat4 := .ofFn fun i j => m.get i (j + i)

/-- `RotRowsRight(M)[i][j] = M[i][(j - i) mod 4]` (41_state_transforms.md R125). -/
def rotRowsRight (m : Mat4) : Mat4 := .ofFn fun i j => m.get i (j - i)

/-- `RowShiftLeft(M) = RotRowsLeft(Transpose(M))` (41_state_transforms.md R126). -/
def rowShiftLeft (m : Mat4) : Mat4 := rotRowsLeft (transpose m)

/-- `RowShiftRight(M) = RotRowsRight(Transpose(M))` (41_state_transforms.md R128). -/
def rowShiftRight (m : Mat4) : Mat4 := rotRowsRight (transpose m)

/-- `MixWord(c)` (41_state_transforms.md R131): every `c` on the right is an input byte. -/
def mixWord (c : Word4) : Word4 :=
  let t := c.b0 ^^^ c.b1 ^^^ c.b2 ^^^ c.b3
  ⟨c.b0 ^^^ t ^^^ double (c.b0 ^^^ c.b1),
   c.b1 ^^^ t ^^^ double (c.b1 ^^^ c.b2),
   c.b2 ^^^ t ^^^ double (c.b2 ^^^ c.b3),
   c.b3 ^^^ t ^^^ double (c.b3 ^^^ c.b0)⟩

/-- `MixRows(M)[i] = MixWord(M[i])` (41_state_transforms.md R133). -/
def mixRows (m : Mat4) : Mat4 := m.mapRows mixWord

/-- `ColumnMix(M) = MixRows(Transpose(M))` (41_state_transforms.md R133). -/
def columnMix (m : Mat4) : Mat4 := mixRows (transpose m)

/-- `PreMixWord(c)` (41_state_transforms.md R136): `x` and `y` come from the input bytes. -/
def preMixWord (c : Word4) : Word4 :=
  let x := double (c.b0 ^^^ c.b2)
  let y := double (c.b1 ^^^ c.b3)
  ⟨c.b0 ^^^ double x, c.b1 ^^^ double y, c.b2 ^^^ double x, c.b3 ^^^ double y⟩

/-- `PreMixRows(M)[i] = PreMixWord(M[i])` (41_state_transforms.md R136). -/
def preMixRows (m : Mat4) : Mat4 := m.mapRows preMixWord

/-- `InvColumnMix(M) = ColumnMix(Transpose(PreMixRows(M)))`, the source's two-step form (41_state_transforms.md
R137). -/
def invColumnMix (m : Mat4) : Mat4 := columnMix (transpose (preMixRows m))

/-- `Slice(W, r)[i][j] = W[4*r + i][j]` (41_state_transforms.md R140), defined when `4*r + 3 < len(W)`; past
the end a word reads zero (log entry 15). -/
def slice (w : List Word4) (r : Nat) : Mat4 :=
  ⟨w.getD (4 * r) .zero, w.getD (4 * r + 1) .zero, w.getD (4 * r + 2) .zero, w.getD (4 * r + 3) .zero⟩

/-- `AddRoundKey(M, K)[i][j] = M[i][j] ^ K[i][j]` (41_state_transforms.md R140). -/
def addRoundKey (m k : Mat4) : Mat4 := m.xor k

end Sys2Proof.Machine
end

