-- ==== Sys2Proof/Machine/Pipeline.lean ====
section
/-! DEFINITION. The forward and the inverse pipeline (43_forward_pipeline.md R190, R191, 44_inverse_pipeline.md
R210, R211) and the block-by-block functions on messages (45_system_and_multiblock.md R235). -/

namespace Sys2Proof.Machine

/-- One full forward round with round key `k` (the loop body of 43_forward_pipeline.md R191). -/
def forwardRound (T : Tables) (k m : Mat4) : Mat4 :=
  addRoundKey (columnMix (rowShiftLeft (subBytes T m))) k

/-- The forward rounds `r = 1 .. n`, in increasing order (43_forward_pipeline.md R191). -/
def forwardRounds (T : Tables) (w : List Word4) : Nat → Mat4 → Mat4
  | 0, m => m
  | n + 1, m => forwardRound T (slice w (n + 1)) (forwardRounds T w n m)

/-- The final forward round: no column mix, an explicit transpose (43_forward_pipeline.md R191). -/
def finalRound (T : Tables) (k m : Mat4) : Mat4 :=
  addRoundKey (transpose (rowShiftLeft (subBytes T m))) k

/-- `EncryptM(M, w, R)` (43_forward_pipeline.md R191), for `R >= 1`. DESIGN CHOICE: at `R = 0`, which R193 does not
define, it is key 0 and a final round with slice 0 again (log entry 19). -/
def encryptM (T : Tables) (m : Mat4) (w : List Word4) (R : Nat) : Mat4 :=
  finalRound T (slice w R) (forwardRounds T w (R - 1) (addRoundKey m (slice w 0)))

/-- The row shift right and inverse substitution that end each inverse round (44_inverse_pipeline.md R211). -/
def undoShiftSub (T : Tables) (m : Mat4) : Mat4 := invSubBytes T (rowShiftRight m)

/-- One inverse round with round key `k` (the loop body of 44_inverse_pipeline.md R211). -/
def inverseRound (T : Tables) (k m : Mat4) : Mat4 :=
  undoShiftSub T (invColumnMix (addRoundKey (transpose m) k))

/-- The inverse rounds `r = n, n-1, .. 1`, in decreasing order (44_inverse_pipeline.md R211). -/
def inverseRounds (T : Tables) (w : List Word4) : Nat → Mat4 → Mat4
  | 0, m => m
  | n + 1, m => inverseRounds T w n (inverseRound T (slice w (n + 1)) m)

/-- `DecryptM(M, w, R)` (44_inverse_pipeline.md R211), for `R >= 1`. DESIGN CHOICE: at `R = 0`, which the spec does
not define, slice 0 is used first and last (log entry 19). -/
def decryptM (T : Tables) (m : Mat4) (w : List Word4) (R : Nat) : Mat4 :=
  addRoundKey
    (transpose (inverseRounds T w (R - 1) (undoShiftSub T (addRoundKey m (slice w R)))))
    (slice w 0)

/-- `Encrypt(block, key, R)` (43_forward_pipeline.md R190), defined where `Expand(key, R)` is. DESIGN CHOICE: a value
outside that domain too (log entry 19). -/
def encryptBlock (T : Tables) (b : Block) (key : List Byte) (R : Nat) : Block :=
  toBlock (encryptM T (toMatrix b) (expand T key R) R)

/-- `Decrypt(block, key, R)` (44_inverse_pipeline.md R210), defined where `Expand(key, R)` is. DESIGN CHOICE: a value
outside that domain too (log entry 19). -/
def decryptBlock (T : Tables) (b : Block) (key : List Byte) (R : Nat) : Block :=
  toBlock (decryptM T (toMatrix b) (expand T key R) R)

/-- Split a message into blocks of 16 bytes; none where the length is not a multiple of 16
(45_system_and_multiblock.md R235). -/
def splitBlocks : List Byte → Option (List Block)
  | [] => some []
  | a0 :: a1 :: a2 :: a3 :: a4 :: a5 :: a6 :: a7 :: a8 :: a9 :: a10 :: a11 :: a12 :: a13 :: a14 :: a15 :: rest =>
    (splitBlocks rest).map
      (⟨⟨a0, a1, a2, a3⟩, ⟨a4, a5, a6, a7⟩, ⟨a8, a9, a10, a11⟩, ⟨a12, a13, a14, a15⟩⟩ :: ·)
  | _ => none

/-- The blocks of a message; none for a malformed length, that is 0 or not a multiple of 16
(45_system_and_multiblock.md R235, R236). -/
def messageBlocks (msg : List Byte) : Option (List Block) := if msg = [] then none else splitBlocks msg

/-- Apply a block function to each block of a message, in order (45_system_and_multiblock.md R235). -/
def onMessage (f : Block → Block) (msg : List Byte) : Option (List Byte) :=
  (messageBlocks msg).map fun blocks => blocks.flatMap fun b => (f b).toList

/-- `EncryptECB(msg, key, R)` (45_system_and_multiblock.md R235). DESIGN CHOICE: a value where `Encrypt` is not
defined for the key and the round count (log entry 19). -/
def encryptECB (T : Tables) (msg key : List Byte) (R : Nat) : Option (List Byte) :=
  onMessage (fun b => encryptBlock T b key R) msg

/-- `DecryptECB(msg, key, R)` (45_system_and_multiblock.md R235). DESIGN CHOICE: a value where `Decrypt` is not
defined for the key and the round count (log entry 19). -/
def decryptECB (T : Tables) (msg key : List Byte) (R : Nat) : Option (List Byte) :=
  onMessage (fun b => decryptBlock T b key R) msg

end Sys2Proof.Machine
end

