-- ==== Sys2Proof/Machine/Ops.lean ====
section
/-! DEFINITION. The named operations over the engine's stores and registers: packing, the key buffer, the
schedule RAM and its tag, validation, taking an error and its acknowledgement, and the reset. -/

namespace Sys2Proof.Machine

/-! Packing (20_memory.md R54). -/

/-- `PackWord([b0, b1, b2, b3])`: the first byte is the most significant (20_memory.md R54). -/
def packWord (w : Word4) : Reg32 := w.b0 ++ w.b1 ++ w.b2 ++ w.b3

/-- `UnpackWord(v) = [v[31:24], v[23:16], v[15:8], v[7:0]]` (20_memory.md R54). -/
def unpackWord (v : Reg32) : Word4 :=
  ⟨v.extractLsb' 24 8, v.extractLsb' 16 8, v.extractLsb' 8 8, v.extractLsb' 0 8⟩

/-! The two stores. -/

/-- Both stores have their full depth: `4*NK_MAX` bytes of `KEY`, `4*(R_MAX+1)` words of `W` (10_state.md
R23, R26). A store lists every entry, so equal stores are equal lists. -/
abbrev Memory.wf (s : State) : Prop :=
  s.KEY.length = 4 * s.params.nkMax ∧ s.W.length = s.params.wDepth

/-- Key word `j`: `KEY[4*j..4*j+3]` (10_state.md R23, R40). -/
def keyWord (s : State) (j : Nat) : Word4 :=
  ⟨s.KEY.getD (4 * j) 0, s.KEY.getD (4 * j + 1) 0, s.KEY.getD (4 * j + 2) 0, s.KEY.getD (4 * j + 3) 0⟩

/-- `KEY[4*j..4*j+3] <- w` (10_state.md R40). -/
def setKeyBytes (key : List Byte) (j : Nat) (w : Word4) : List Byte :=
  (((key.set (4 * j) w.b0).set (4 * j + 1) w.b1).set (4 * j + 2) w.b2).set (4 * j + 3) w.b3

/-- The key a command uses: `KEY[0..KEYLEN-1]`; the bytes above are ignored (10_state.md R23). -/
def usedKey (s : State) : List Byte := s.KEY.take s.KEYLEN.toNat

/-- Clear the schedule tag (10_state.md R28). `W` is not written (log entry 4). -/
def clearTag (s : State) : State := { s with KS_VALID := false, KS_NK := 0, KS_R := 0 }

/-- Replace the block register as a whole (10_state.md R22, 00_scope.md R16). -/
def setS (s : State) (b : Block) : State := { s with S := b }

/-- `W[0..len(w)-1] <- w`: the RAM entries above keep what they hold (10_state.md R26, log entry 4). -/
def overwriteLow (ram w : List Word4) : List Word4 := w ++ ram.drop w.length

/-- The schedule words in use: `W[0..4*(ROUNDS+1)-1]` (43_forward_pipeline.md R195). -/
def usedSchedule (s : State) : List Word4 := s.W.take (4 * (s.ROUNDS.toNat + 1))

/-! Errors (60_exceptions.md R258). -/

/-- `raise E_x`: the command ends with `ERRCODE <- E_x; ESTICKY <- 1; BUSY <- 0; DONE <- 1` and every update
it would have made is discarded: `s` is the state before the command (60_exceptions.md R258). DESIGN CHOICE: `CMDR`,
which may hold any value from here on, keeps the command word (log entry 18). -/
def raiseErr (e : ErrCode) (s : State) : State :=
  { s with ERRCODE := e, ESTICKY := true, BUSY := false, DONE := true }

/-- The engine has no return from an error (60_exceptions.md R261): an accepted write to `CMD` acknowledges
it, latching the next command with `BUSY <- 1; DONE <- 0; ERRCODE <- 0` (10_state.md R32). How many host
actions come before the core's step is drawn here (log entry 6). -/
def acceptCommand (v : Reg32) (s : State) : State :=
  { s with
    CMDR := v, BUSY := true, DONE := false, ERRCODE := .eNone
    lag := Config.coreLag s.draws, draws := s.draws + 1 }

/-- How `CoreStep` ends a command that has a result: the updates applied and the flags set, or the error
raised on the state before (30_encoding.md R78). -/
def finish (s : State) (result : Except ErrCode State) : Outcome :=
  match result with
  | .ok t => .next (completeOk t)
  | .error e => .next (raiseErr e s)

/-! The schedule (42_key_schedule.md R160, R166, R170). -/

/-- `Validate()`: five checks in this order, the first that fails decides the error (42_key_schedule.md R160);
otherwise `(Nk, R)`. -/
def validate (s : State) : Except ErrCode (Nat × Nat) :=
  if s.KEYLEN.toNat = 0 ∨ s.KEYLEN.toNat % 4 ≠ 0 then .error .eKeylen
  else if s.KEYLEN.toNat / 4 > s.params.nkMax then .error .eRange
  else if s.ROUNDS.toNat = 0 then .error .eRounds
  else if s.ROUNDS.toNat > s.params.rMax then .error .eRange
  else if 4 * (s.ROUNDS.toNat + 1) < s.KEYLEN.toNat / 4 then .error .eRounds
  else .ok (s.KEYLEN.toNat / 4, s.ROUNDS.toNat)

/-- `W[0..4*(R+1)-1] <- Expand(KEY[0..KEYLEN-1], R); KS_VALID <- 1; KS_NK <- Nk; KS_R <- R`
(42_key_schedule.md R166, R170). -/
def writeSchedule (s : State) (nk R : Nat) : State :=
  { s with
    W := overwriteLow s.W (expand romTables (usedKey s) R)
    KS_VALID := true, KS_NK := BitVec.ofNat 8 nk, KS_R := BitVec.ofNat 8 R }

/-- The updates of `EXPAND`: validate, then compute the schedule whatever the tag says (42_key_schedule.md
R170). -/
def computeSchedule (s : State) : Except ErrCode State :=
  match validate s with
  | .error e => .error e
  | .ok (nk, R) => .ok (writeSchedule s nk R)

/-- `EnsureSchedule()`: validate, then compute the schedule only where the tag is clear (42_key_schedule.md
R166). -/
def ensureSchedule (s : State) : Except ErrCode State :=
  match validate s with
  | .error e => .error e
  | .ok (nk, R) => if s.KS_VALID then .ok s else .ok (writeSchedule s nk R)

/-- The updates of a command that needs the schedule: ensure it, then go on from the state that holds it
(30_encoding.md R79). -/
def withSchedule (s : State) (body : State → Except ErrCode State) : Except ErrCode State :=
  match ensureSchedule s with
  | .error e => .error e
  | .ok t => body t

/-- Replace `S` by `ToBlock(F(ToMatrix(S)))`: the updates of a unit command (41_state_transforms.md R123). -/
def mapMatrix (f : Mat4 → Mat4) (s : State) : State := setS s (toBlock (f (toMatrix s.S)))

/-! Reset (10_state.md R44, 70_reset_and_hazards.md R280). -/

/-- Every piece of the engine's state takes its reset value; the model's own fields (the host's script and
log, the count of free values) are no part of the engine and stay (log entry 5). -/
def resetEngine (s : State) : State :=
  { State.resetOf s.params with script := s.script, log := s.log, lag := s.lag, draws := s.draws }

end Sys2Proof.Machine
end

