-- ==== Sys2Proof/Machine/Cipher.lean ====
section
/-! DEFINITION. The three cipher commands (42_key_schedule.md R170, 43_forward_pipeline.md R195,
44_inverse_pipeline.md R215). -/

namespace Sys2Proof.Machine

/-- `EXPAND`: validate, then compute the schedule whether or not the tag was set; `S` is not touched
(42_key_schedule.md R170). -/
def execExpand (s : State) : Outcome := finish s (computeSchedule s)

/-- `ENCRYPT`: ensure the schedule, then the forward pipeline on `S` (43_forward_pipeline.md R195). -/
def execEncrypt (s : State) : Outcome :=
  finish s <| withSchedule s fun t =>
    .ok (mapMatrix (fun m => encryptM romTables m (usedSchedule t) t.ROUNDS.toNat) t)

/-- `DECRYPT`: ensure the schedule, then the inverse pipeline on `S` (44_inverse_pipeline.md R215). -/
def execDecrypt (s : State) : Outcome :=
  finish s <| withSchedule s fun t =>
    .ok (mapMatrix (fun m => decryptM romTables m (usedSchedule t) t.ROUNDS.toNat) t)

end Sys2Proof.Machine
end

