-- ==== Sys2Proof/Machine/System.lean ====
section
/-! DEFINITION. The two system commands (45_system_and_multiblock.md R230, R231). -/

namespace Sys2Proof.Machine

/-- `NOP`: completes, nothing else (45_system_and_multiblock.md R230). -/
def execNop (s : State) : Outcome := finish s (.ok s)

/-- `RESET`: every piece of state takes its reset value, and `DONE` is 0 after it, unlike after every other
command (45_system_and_multiblock.md R231, 30_encoding.md R78). -/
def execReset (s : State) : Outcome := .next (resetEngine s)

end Sys2Proof.Machine
end

