-- ==== Sys2Proof/Machine/Units.lean ====
section
/-! DEFINITION. The unit commands: each applies one transform to `S` (30_encoding.md R74, R79). -/

namespace Sys2Proof.Machine

/-- `DBL`: each of the 16 bytes doubled independently (40_field_and_tables.md R93). -/
def execDbl (s : State) : Outcome := finish s (.ok (setS s (s.S.map double)))

/-- `SUB`: each byte through `SBOX` (40_field_and_tables.md R102). -/
def execSub (s : State) : Outcome := finish s (.ok (mapMatrix (subBytes romTables) s))

/-- `ISUB`: each byte through `ISBOX` (40_field_and_tables.md R106). -/
def execIsub (s : State) : Outcome := finish s (.ok (mapMatrix (invSubBytes romTables) s))

/-- `XPOSE` (41_state_transforms.md R123). -/
def execXpose (s : State) : Outcome := finish s (.ok (mapMatrix transpose s))

/-- `SHL`: the row shift left with its transpose (41_state_transforms.md R127). -/
def execShl (s : State) : Outcome := finish s (.ok (mapMatrix rowShiftLeft s))

/-- `SHR`: the row shift right with its transpose (41_state_transforms.md R129). -/
def execShr (s : State) : Outcome := finish s (.ok (mapMatrix rowShiftRight s))

/-- `MIX`: the column mix with its transpose (41_state_transforms.md R134). -/
def execMix (s : State) : Outcome := finish s (.ok (mapMatrix columnMix s))

/-- `IMIX`: the inverse column mix, no net transpose (41_state_transforms.md R138). -/
def execImix (s : State) : Outcome := finish s (.ok (mapMatrix invColumnMix s))

/-- `ADDKEY n`: ensure the schedule, refuse `n > ROUNDS` with `E_INDEX`, exclusive-or slice `n` into `S`
(41_state_transforms.md R147). On `E_INDEX` the schedule write is dropped with the rest (42_key_schedule.md
R166). -/
def execAddkey (n : Nat) (s : State) : Outcome :=
  finish s <| withSchedule s fun t =>
    if n > t.ROUNDS.toNat then .error .eIndex
    else .ok (mapMatrix (fun m => addRoundKey m (slice t.W n)) t)

end Sys2Proof.Machine
end

