-- ==== Sys2Proof/Machine/Dispatch.lean ====
section
/-! DEFINITION. The dispatch: one arm per command (`Exec` of 30_encoding.md R78 and R74). -/

namespace Sys2Proof.Machine

def exec (i : Instr) (s : State) : Host.Outcome State Fault Refusal :=
  match i with
  | .nop => Sys2Proof.Machine.execNop s
  | .expand => Sys2Proof.Machine.execExpand s
  | .encrypt => Sys2Proof.Machine.execEncrypt s
  | .decrypt => Sys2Proof.Machine.execDecrypt s
  | .sub => Sys2Proof.Machine.execSub s
  | .isub => Sys2Proof.Machine.execIsub s
  | .shl => Sys2Proof.Machine.execShl s
  | .shr => Sys2Proof.Machine.execShr s
  | .mix => Sys2Proof.Machine.execMix s
  | .imix => Sys2Proof.Machine.execImix s
  | .xpose => Sys2Proof.Machine.execXpose s
  | .addkey n => Sys2Proof.Machine.execAddkey n s
  | .dbl => Sys2Proof.Machine.execDbl s
  | .reset => Sys2Proof.Machine.execReset s

end Sys2Proof.Machine
end

