-- ==== Sys2Proof/Machine/HostPort.lean ====
section
/-! DEFINITION. The host port: what a read returns, what a write does, the polling of `WAIT` and the reset
input (20_memory.md R56, R57, R59, 30_encoding.md R80, 70_reset_and_hazards.md R280). -/

namespace Sys2Proof.Machine

/-- `WDATA`: `PackWord(W[WIDX])` where the tag is valid and `WIDX < 4*(KS_R+1)`, else 0 (10_state.md R37). -/
def wdataValue (s : State) : Reg32 :=
  if s.KS_VALID ∧ s.WIDX.toNat < 4 * (s.KS_R.toNat + 1) then packWord (s.W.getD s.WIDX.toNat .zero) else 0

/-- `PARAMS`: bits 7:0 `NK_MAX`, bits 15:8 `R_MAX`, bits 31:16 zero (10_state.md R38). -/
def paramsValue (s : State) : Reg32 :=
  (0 : BitVec 16) ++ BitVec.ofNat 8 s.params.rMax ++ BitVec.ofNat 8 s.params.nkMax

/-- The value a register shows (20_memory.md R56, 10_state.md R32 to R41). -/
def regValue (s : State) : Reg → Reg32
  | .cmd => 0
  | .status => statusWord s
  | .keylen => s.KEYLEN
  | .rounds => s.ROUNDS
  | .widx => s.WIDX
  | .wdata => wdataValue s
  | .params => paramsValue s
  | .sw i => packWord (s.S.word i)
  | .keyw j => packWord (keyWord s j)
  | .reserved => 0

/-- The registers whose value is unspecified while a command runs (20_memory.md R56). -/
def unsettledWhileBusy : Reg → Bool
  | .sw _ | .wdata => true
  | .cmd | .status | .keylen | .rounds | .widx | .params | .keyw _ | .reserved => false

/-- Hand a value read at an offset to the host (log entry 5). -/
def logRead (s : State) (offset : Nat) (v : Reg32) : State := { s with log := s.log ++ [(offset, v)] }

/-- `HostRead` of a register (20_memory.md R56): no state of the engine changes. `SW[i]` and `WDATA` while
`BUSY = 1` return a fresh free value (93_implementation_defined.md V1, log entry 7). -/
def readReg (s : State) (offset : Nat) (r : Reg) : State :=
  if s.BUSY && unsettledWhileBusy r then
    logRead { s with draws := s.draws + 1 } offset (Config.busyRead s.draws)
  else logRead s offset (regValue s r)

/-- `HostWrite` of a register while `BUSY = 0` (20_memory.md R57). -/
def acceptWrite (s : State) (r : Reg) (v : Reg32) : State :=
  match r with
  | .cmd => acceptCommand v s
  | .keylen => clearTag { s with KEYLEN := v }
  | .rounds => clearTag { s with ROUNDS := v }
  | .keyw j => clearTag { s with KEY := setKeyBytes s.KEY j (unpackWord v) }
  | .widx => { s with WIDX := v }
  | .sw i => setS s (s.S.setWord i (unpackWord v))
  | .status | .wdata | .params | .reserved => s

/-- `HostWrite` (20_memory.md R57): dropped without a trace while `BUSY = 1`. -/
def writeReg (s : State) (r : Reg) (v : Reg32) : State := if s.BUSY then s else acceptWrite s r v

/-- One poll of `WAIT`: read `STATUS`; while `BUSY` reads 1 the `WAIT` stays the next action (30_encoding.md
R80, log entry 14). -/
def pollStatus (s : State) : State :=
  let t := readReg s (offsetOf .status) .status
  if s.BUSY then { t with script := .wait :: t.script } else t

/-- One host action, from a state whose script no longer holds it. An access the port cannot express is
refused (20_memory.md R59, log entry 8). -/
def hostAct (a : HostAction) (s : State) : Outcome :=
  match a with
  | .read size offset =>
    if portExpresses size offset then .next (readReg s offset (regAt s.params offset))
    else .refused (.portCannotExpress size offset)
  | .write size offset v =>
    if portExpresses size offset then .next (writeReg s (regAt s.params offset) v)
    else .refused (.portCannotExpress size offset)
  | .wait => .next (pollStatus s)
  | .rst => .next (resetEngine s)

/-- The state from which the host takes its next action: the script without it, one action less to come
before the core's step (log entry 6). -/
def takeAction (s : State) (rest : List HostAction) : State := { s with script := rest, lag := s.lag - 1 }

/-- The host's turn. With nothing to do the engine is idle and keeps all its state (60_exceptions.md R275, log
entry 10). -/
def hostTurn (s : State) : Outcome :=
  match s.script with
  | [] => .next s
  | a :: rest => hostAct a (takeAction s rest)

/-- Whose turn it is: the core's when `BUSY = 1` and no host action is to come before its step
(70_reset_and_hazards.md R292, log entry 6). -/
def coreMoves (s : State) : Bool := s.BUSY && (s.lag == 0 || s.script.isEmpty)

end Sys2Proof.Machine
end

