-- ==== Sys2Proof/Machine/CoreStep.lean ====
section
/-! DEFINITION. The core's one kind of step, `CoreStep` (30_encoding.md R78), and how a command word comes to be
the one it executes. -/

namespace Sys2Proof.Machine

/-- `CoreStep`: decode the latched word and execute it; an illegal word ends with `E_CMD` and changes nothing
else (30_encoding.md R75, R78). -/
def coreStep (s : State) : Outcome :=
  match decode s.CMDR with
  | .ok i => exec i s
  | .error _ => .next (raiseErr .eCmd s)

/-- The state after an accepted write of the command word `v` (10_state.md R32) with no host action to come
before the core's step (log entry 9). -/
def latchCommand (v : Reg32) (s : State) : State :=
  { s with CMDR := v, BUSY := true, DONE := false, ERRCODE := .eNone, lag := 0 }

end Sys2Proof.Machine
end

