-- ==== Sys2Proof/Machine/Step.lean ====
section
/-! DEFINITION. One step of the machine: the core's or the host's turn (10_state.md R20, 20_memory.md R62). -/

namespace Sys2Proof.Machine

/-- One atomic transition of one of the two agents. -/
def step (s : State) : Host.Outcome State Fault Refusal :=
  if coreMoves s then coreStep s else hostTurn s

/-- `s` with a command word latched as the next the core executes (10_state.md R32, log entry 9). -/
def State.withFetchWord (s : State) (nbits w : Nat) : State :=
  latchCommand (BitVec.ofNat 32 (w % 2 ^ nbits)) s

end Sys2Proof.Machine
end

