-- ==== Sys2Proof/Machine/Scripts.lean ====
section
/-! DEFINITION. The host-script notation of 30_encoding.md R80 and R81 as functions that build lists of host
actions, and the block-by-block procedure of 45_system_and_multiblock.md R236. -/

namespace Sys2Proof.Machine

/-- `WR reg, value`. -/
def scriptWR (r : Reg) (v : Reg32) : List HostAction := [.write .word (offsetOf r) v]

/-- `RD reg`. -/
def scriptRD (r : Reg) : List HostAction := [.read .word (offsetOf r)]

/-- `CMD mnemonic`: write the encoded command. -/
def scriptCMD (i : Instr) : List HostAction := scriptWR .cmd (encode i)

/-- `RUN mnemonic`: `CMD`, then `WAIT`. -/
def scriptRUN (i : Instr) : List HostAction := scriptCMD i ++ [.wait]

/-- The writes of `KEYW[j]`, `KEYW[j+1]`, .. . -/
def scriptKeyWords : Nat → List Word4 → List HostAction
  | _, [] => []
  | j, w :: ws => scriptWR (.keyw j) (packWord w) ++ scriptKeyWords (j + 1) ws

/-- `LDKEY h`: the key length, then the key words. -/
def scriptLDKEY (key : List Word4) : List HostAction :=
  scriptWR .keylen (BitVec.ofNat 32 (4 * key.length)) ++ scriptKeyWords 0 key

/-- `LDBLK h`: the four words of a block. -/
def scriptLDBLK (b : Block) : List HostAction :=
  scriptWR (.sw 0) (packWord b.w0) ++ scriptWR (.sw 1) (packWord b.w1) ++
    scriptWR (.sw 2) (packWord b.w2) ++ scriptWR (.sw 3) (packWord b.w3)

/-- `RDBLK`: read the four words of the block register. -/
def scriptRDBLK : List HostAction := scriptRD (.sw 0) ++ scriptRD (.sw 1) ++ scriptRD (.sw 2) ++ scriptRD (.sw 3)

/-- `RDW n`: select a schedule word and read it. -/
def scriptRDW (n : Reg32) : List HostAction := scriptWR .widx n ++ scriptRD .wdata

/-- The host's procedure for a message (45_system_and_multiblock.md R236): none where the message's length is
malformed, before any register is written; else the key and the round count once, then each block in order
loaded, run, its status read and its result read. -/
def scriptMessage (cmd : Instr) (key : List Word4) (rounds : Reg32) (msg : List Byte) : Option (List HostAction) :=
  (messageBlocks msg).map fun blocks =>
    scriptLDKEY key ++ scriptWR .rounds rounds ++
      blocks.flatMap fun b => scriptLDBLK b ++ scriptRUN cmd ++ scriptRD .status ++ scriptRDBLK

/-- The encoding of a program: the (offset, value) pairs of its writes, in order (30_encoding.md R80). -/
def scriptEncoding (script : List HostAction) : List (Nat × Reg32) :=
  script.filterMap fun
    | .write _ offset v => some (offset, v)
    | .read _ _ | .wait | .rst => none

end Sys2Proof.Machine
end

