-- ==== Sys2Proof/Safety.lean ====
section
/-! DEFINITION. The invariant of the machine and what counts as a safe run, in the terms claims use. -/

namespace Sys2Proof.Machine

/-- The tag invariant (10_state.md R27): where the tag is valid, `KEYLEN` and `ROUNDS` pass validation, the tag
names them, and `W` holds their schedule; where it is not, the tag is zero. -/
abbrev TagSound (s : State) : Prop :=
  if s.KS_VALID then
    validate s = .ok (s.KS_NK.toNat, s.KS_R.toNat) ∧
      s.W.take (4 * (s.KS_R.toNat + 1)) = expand romTables (usedKey s) s.ROUNDS.toNat
  else s.KS_NK = 0 ∧ s.KS_R = 0

/-- The flags: while a command runs `DONE` and `ERRCODE` are 0 (10_state.md R32); an error code stands only
beside `ESTICKY` and `DONE` (10_state.md R29, 60_exceptions.md R258). -/
abbrev FlagsSound (s : State) : Prop :=
  (s.BUSY = true → s.DONE = false ∧ s.ERRCODE = .eNone) ∧
    (s.ERRCODE ≠ .eNone → s.ESTICKY = true ∧ s.DONE = true)

/-- The invariant of the engine: legal parameters, stores of full depth, a sound tag, sound flags. -/
abbrev EngineInv (s : State) : Prop := s.params.ok ∧ Memory.wf s ∧ TagSound s ∧ FlagsSound s

/-- An outcome is safe when the machine goes on with no error recorded since reset (60_exceptions.md R276: a
claim about a program that must not fail takes `ESTICKY = 0`). -/
abbrev SafeOutcome : Outcome → Prop
  | .next t => t.ESTICKY = false
  | .fault _ => False
  | .refused _ => False

/-- Two states whose engines are equal: every field of the spec's agrees; the model's own fields (the host's
script and log, the free values' counters) may differ. -/
abbrev SameEngine (s t : State) : Prop :=
  { s with script := [], log := [], lag := 0, draws := 0 } =
    { t with script := [], log := [], lag := 0, draws := 0 }

/-- The commands that begin with `EnsureSchedule` or `Validate` (30_encoding.md R79). -/
abbrev NeedsSchedule : Instr → Prop
  | .expand | .encrypt | .decrypt | .addkey _ => True
  | .nop | .sub | .isub | .shl | .shr | .mix | .imix | .xpose | .dbl | .reset => False

/-- The key length is well formed: a positive multiple of 4 (60_exceptions.md R252). -/
abbrev KeylenFormed (s : State) : Prop := s.KEYLEN.toNat ≠ 0 ∧ s.KEYLEN.toNat % 4 = 0

/-- What the host must have loaded before a command that needs the schedule (70_reset_and_hazards.md R284):
`KEYLEN` a positive multiple of 4 of at most `4*NK_MAX`, `ROUNDS` in 1..`R_MAX` and `4*(ROUNDS+1) >= Nk`. -/
abbrev ScheduleLegal (s : State) : Prop :=
  KeylenFormed s ∧ s.KEYLEN.toNat / 4 ≤ s.params.nkMax ∧ 1 ≤ s.ROUNDS.toNat ∧
    s.ROUNDS.toNat ≤ s.params.rMax ∧ s.KEYLEN.toNat / 4 ≤ 4 * (s.ROUNDS.toNat + 1)

/-- The schedule of the key and the round count now in the registers: `Expand(KEY[0..KEYLEN-1], ROUNDS)`
(10_state.md R27). -/
def currentSchedule (s : State) : List Word4 :=
  expand romTables (s.KEY.take s.KEYLEN.toNat) s.ROUNDS.toNat

/-- The state after a command that succeeded and wrote nothing but `S` and the flags (30_encoding.md R78). That
`CMDR` is kept is the model's choice (log entry 18). -/
def afterUnit (s : State) (b : Block) : State :=
  { s with S := b, ERRCODE := .eNone, BUSY := false, DONE := true }

/-- The state after a command that succeeded with the schedule of the registers in `W[0..4*(ROUNDS+1)-1]` and in
the tag, and `b` in `S` (42_key_schedule.md R166, R170). What the rest of `W` holds is unspecified and cannot be
observed (10_state.md R27): it is the argument `tail`, which a claim leaves open. That `CMDR` is kept is the model's
choice (log entry 18). -/
def afterSchedule (s : State) (b : Block) (tail : List Word4) : State :=
  { s with
    S := b
    W := currentSchedule s ++ tail
    KS_VALID := true
    KS_NK := BitVec.ofNat 8 (s.KEYLEN.toNat / 4)
    KS_R := BitVec.ofNat 8 s.ROUNDS.toNat
    ERRCODE := .eNone, BUSY := false, DONE := true }

/-- The state after a command that ended with error `e`: four flags, nothing else (60_exceptions.md R258). That `CMDR`
is kept is the model's choice (log entry 18). -/
def afterError (s : State) (e : ErrCode) : State :=
  { s with ERRCODE := e, ESTICKY := true, BUSY := false, DONE := true }

/-- A host action the port can express (20_memory.md R59). -/
abbrev Expressible : HostAction → Prop
  | .read size offset => portExpresses size offset = true
  | .write size offset _ => portExpresses size offset = true
  | .wait | .rst => True

end Sys2Proof.Machine
end

