-- ==== Sys2Proof/Certificates/Slice0/Obligations.lean ====
section
/-! DEFINITION. The statements for the provers, from the numbered rules of spec/. -/

open Sys2Proof Sys2Proof.Machine

/-! ### Encoding (30_encoding.md) -/

/-- R76: `Decode` and `Encode` are inverse to each other on legal commands, and the encodings are those of
R74. -/
def Obligations.DecodingInvertsEncoding : Prop :=
  (∀ i : Instr, i.wellFormed → decode (encode i) = .ok i) ∧
  (∀ (c : Reg32) (i : Instr), decode c = .ok i → i.wellFormed ∧ encode i = c) ∧
  (∀ c : Reg32, (∃ e, decode c = .error e) ∨ ∃ i, decode c = .ok i) ∧
  (∀ n, n ≤ 255 → encode (.addkey n) = 0x00001700#32 ||| BitVec.ofNat 32 n) ∧
  encode .nop = 0x00000000 ∧ encode .expand = 0x00000100 ∧ encode .encrypt = 0x00000200 ∧
  encode .decrypt = 0x00000300 ∧ encode .sub = 0x00001000 ∧ encode .isub = 0x00001100 ∧
  encode .shl = 0x00001200 ∧ encode .shr = 0x00001300 ∧ encode .mix = 0x00001400 ∧
  encode .imix = 0x00001500 ∧ encode .xpose = 0x00001600 ∧ encode .dbl = 0x00001800 ∧
  encode .reset = 0x0000FF00

/-- R74: a word decodes to a command exactly when it selects that command's row of the opcode map, and no two
rows overlap. -/
def Obligations.OpcodeRowsSelectOneCommand : Prop :=
  (∀ (c : Reg32) (i : Instr), decode c = .ok i ↔
    ∃ r ∈ opcodeRows, r.selects c ∧ i = r.command (c.extractLsb' 0 8).toNat) ∧
  opcodeRows.Pairwise fun r q => ∀ c, ¬ (r.selects c ∧ q.selects c)

/-- R75: which words are illegal; the write of one is accepted like that of any other word and only latches it
(R32; what it draws for `lag` is the model's own, log entry 6), and `CoreStep` ends it with `E_CMD` and changes
nothing else. -/
def Obligations.IllegalWordsEndWithECmd : Prop :=
  (∀ c : Reg32, (∃ e, decode c = .error e) ↔
    c.extractLsb' 16 16 ≠ 0 ∨
    c.extractLsb' 8 8 ∉ ([0x00, 0x01, 0x02, 0x03, 0x10, 0x11, 0x12, 0x13, 0x14, 0x15, 0x16, 0x17, 0x18,
      0xFF] : List (BitVec 8)) ∨
    (c.extractLsb' 8 8 ≠ 0x17 ∧ c.extractLsb' 0 8 ≠ 0)) ∧
  (∀ (s : State) (c : Reg32), s.BUSY = false →
    ∃ n k, writeReg s .cmd c =
      { s with CMDR := c, BUSY := true, DONE := false, ERRCODE := .eNone, lag := n, draws := k }) ∧
  (∀ s : State, (∃ e, decode s.CMDR = .error e) → coreStep s = .next (afterError s .eCmd))

/-- Sanity: a few command words written out from R74 and R75, and what they decode to. -/
def Obligations.WrittenOutWordsDecode : Prop :=
  decodeTableWord 32 0b00000000000000000000000000000000 = some .nop ∧
  decodeTableWord 32 0b00000000000000000000001000000000 = some .encrypt ∧
  decodeTableWord 32 0b00000000000000000001001100000000 = some .shr ∧
  decodeTableWord 32 0b00000000000000000001011100001010 = some (.addkey 10) ∧
  decodeTableWord 32 0b00000000000000000001100000000000 = some .dbl ∧
  decodeTableWord 32 0b00000000000000001111111100000000 = some .reset ∧
  decodeTableWord 32 0b00000000000000010001011100000000 = none ∧
  decodeTableWord 32 0b00000000000000000000010000000000 = none

/-- When it is the core's turn, a step is `CoreStep`: `exec` of the command that the latched word decodes to, or the
end of an illegal word with `E_CMD`, which changes four flags only (R78, R75); the word that
`withFetchWord` places is the one the next step executes (the count `lag` and the state `withFetchWord` gives are
the model's own, log entries 6 and 9). -/
def Obligations.StepRunsLatchedCommand : Prop :=
  (∀ s : State, s.BUSY = true → (s.lag = 0 ∨ s.script = []) →
    step s = coreStep s ∧ ((∃ e, decode s.CMDR = .error e) → step s = .next (afterError s .eCmd))) ∧
  (∀ (s : State) (i : Instr), s.BUSY = true → (s.lag = 0 ∨ s.script = []) → decode s.CMDR = .ok i →
    step s = exec i s) ∧
  (∀ (s : State) (w : Nat) (i : Instr), decodeTableWord 32 w = some i →
    (s.withFetchWord 32 w).CMDR = BitVec.ofNat 32 w ∧
    step (s.withFetchWord 32 w) = exec i (s.withFetchWord 32 w))

/-- When it is not the core's turn, a step is the host's next action; with none pending, an idle engine keeps
all its state (the host's list and the count of actions are the model's own, log entries 5, 6 and 10). -/
def Obligations.StepRunsNextHostAction : Prop :=
  (∀ (s : State) (a : HostAction) (rest : List HostAction), s.script = a :: rest →
    (s.BUSY = false ∨ s.lag ≠ 0) → step s = hostAct a { s with script := rest, lag := s.lag - 1 }) ∧
  (∀ s : State, s.BUSY = false → s.script = [] → step s = .next s)

/-! ### The unit commands (40_field_and_tables.md, 41_state_transforms.md) -/

/-- R93, R102, R106: `DBL`, `SUB` and `ISUB`, under the words given, complete: each byte of `S` is doubled or
looked up on its own, and nothing else changes but the flags of completion; `SUB` is the matrix substitution. That
`CMDR` is kept when the command has succeeded is no rule of the spec: it is the model's choice (log entry 18). -/
def Obligations.ByteUnitCommandsComplete : Prop :=
  encode .dbl = 0x00001800 ∧ encode .sub = 0x00001000 ∧ encode .isub = 0x00001100 ∧
  double 0x00 = 0x00 ∧ double 0x80 = 0x1B ∧ subByte romTables 0x00 = 0x63 ∧ subByte romTables 0x52 = 0x00 ∧
  invSubByte romTables 0x63 = 0x00 ∧ invSubByte romTables 0x00 = 0x52 ∧
  ∀ s : State,
    (Block.ofFn fun k => subByte romTables (s.S.get k)) = toBlock (subBytes romTables (toMatrix s.S)) ∧
    exec .dbl s = .next (afterUnit s (.ofFn fun k => double (s.S.get k))) ∧
    exec .sub s = .next (afterUnit s (.ofFn fun k => subByte romTables (s.S.get k))) ∧
    exec .isub s = .next (afterUnit s (.ofFn fun k => invSubByte romTables (s.S.get k)))

/-- R123, R127, R129: `XPOSE`, `SHL` and `SHR`, under the words given, complete: `S` takes the transform of its
matrix, byte `4*i+j` of the new `S` being the byte of the old one that the written-out forms name, and nothing else
changes but the flags of completion. The corner cases: twice `XPOSE` restores, the diagonal stays, `XPOSE` first
makes a shift the bare rotation, and four shifts in a row do not restore every `S`. That `CMDR` is kept when the
command has succeeded is no rule of the spec: it is the model's choice (log entry 18). -/
def Obligations.RearrangingUnitCommandsComplete : Prop :=
  encode .xpose = 0x00001600 ∧ encode .shl = 0x00001200 ∧ encode .shr = 0x00001300 ∧
  (∀ m : Mat4, transpose (transpose m) = m ∧ (∀ i, (transpose m).get i i = m.get i i) ∧
    rowShiftLeft (transpose m) = rotRowsLeft m ∧ rowShiftRight (transpose m) = rotRowsRight m) ∧
  (∃ m : Mat4, rowShiftLeft (rowShiftLeft (rowShiftLeft (rowShiftLeft m))) ≠ m ∧
    rowShiftRight (rowShiftRight (rowShiftRight (rowShiftRight m))) ≠ m) ∧
  ∀ s : State,
    (∃ b : Block, exec .xpose s = .next (afterUnit s b) ∧ b = toBlock (transpose (toMatrix s.S)) ∧
      ∀ i j : Fin 4, b.get ⟨4 * i + j, by omega⟩ = s.S.get ⟨4 * j + i, by omega⟩) ∧
    (∃ b : Block, exec .shl s = .next (afterUnit s b) ∧ b = toBlock (rowShiftLeft (toMatrix s.S)) ∧
      ∀ i j : Fin 4, b.get ⟨4 * i + j, by omega⟩ = s.S.get ⟨4 * ((j + i) % 4) + i, by omega⟩) ∧
    (∃ b : Block, exec .shr s = .next (afterUnit s b) ∧ b = toBlock (rowShiftRight (toMatrix s.S)) ∧
      ∀ i j : Fin 4, b.get ⟨4 * i + j, by omega⟩ = s.S.get ⟨4 * ((j + 4 - i) % 4) + i, by omega⟩)

/-- R134, R138: `MIX` and `IMIX`, under the words given, complete: `S` takes the transform of its matrix. `MIX`
mixes the columns of `S` as stored (after `XPOSE`, the rows), `IMIX` un-mixes its rows, each output byte being the
field combination of R132 or R137; nothing else changes but the flags of completion. That `CMDR` is kept when the
command has succeeded is no rule of the spec: it is the model's choice (log entry 18). -/
def Obligations.ColumnMixCommandsComplete : Prop :=
  encode .mix = 0x00001400 ∧ encode .imix = 0x00001500 ∧
  (∀ m : Mat4, columnMix (transpose m) = mixRows m) ∧
  ∀ s : State,
    (∃ b : Block, exec .mix s = .next (afterUnit s b) ∧ b = toBlock (columnMix (toMatrix s.S)) ∧
      ∀ i j : Fin 4, b.get ⟨4 * i + j, by omega⟩ =
        gfMul (s.S.get ⟨4 * j + i, by omega⟩) 0x02 ^^^
        gfMul (s.S.get ⟨4 * ((j + 1) % 4) + i, by omega⟩) 0x03 ^^^
        s.S.get ⟨4 * ((j + 2) % 4) + i, by omega⟩ ^^^ s.S.get ⟨4 * ((j + 3) % 4) + i, by omega⟩) ∧
    (∃ b : Block, exec .imix s = .next (afterUnit s b) ∧ b = toBlock (invColumnMix (toMatrix s.S)) ∧
      ∀ i j : Fin 4, b.get ⟨4 * i + j, by omega⟩ =
        gfMul (s.S.get ⟨4 * i + j, by omega⟩) 0x0E ^^^
        gfMul (s.S.get ⟨4 * i + (j + 1) % 4, by omega⟩) 0x0B ^^^
        gfMul (s.S.get ⟨4 * i + (j + 2) % 4, by omega⟩) 0x0D ^^^
        gfMul (s.S.get ⟨4 * i + (j + 3) % 4, by omega⟩) 0x09)

/-- R147: `ADDKEY n` under the machine's invariant. With legal registers and `n <= ROUNDS` it completes: slice `n`
of the schedule of the registers is exclusive-ored into `S`, and that schedule stands in `W` and the tag; issuing
it twice restores `S`. A failing validation raises its error, and then `n > ROUNDS` raises `E_INDEX`; an error
changes four flags only. That `CMDR` is kept when the command has succeeded is no rule of the spec: it is the
model's choice (log entry 18). -/
def Obligations.AddkeyAppliesItsSlice : Prop :=
  ∀ (s : State) (n : Nat), EngineInv s →
    (n ≤ 255 → encode (.addkey n) = 0x00001700#32 ||| BitVec.ofNat 32 n) ∧
    (ScheduleLegal s → n ≤ s.ROUNDS.toNat →
      (∃ tail, exec (.addkey n) s = .next (afterSchedule s (.ofFn fun k =>
        s.S.get k ^^^ ((currentSchedule s).getD (4 * n + k / 4) .zero).get ⟨k % 4, by omega⟩) tail)) ∧
      ∃ t u, exec (.addkey n) s = .next t ∧ exec (.addkey n) t = .next u ∧ u.S = s.S) ∧
    (∀ e, validate s = .error e → exec (.addkey n) s = .next (afterError s e)) ∧
    (ScheduleLegal s → s.ROUNDS.toNat < n → exec (.addkey n) s = .next (afterError s .eIndex))

/-! ### The cipher commands (files 42 to 44) -/

/-- R170: `EXPAND` validates and, whatever the tag says, leaves the schedule of the registers in `W` and the tag;
`S` is not touched; a failing validation raises its error and changes four flags only. That `CMDR` is kept when the
command has succeeded is no rule of the spec: it is the model's choice (log entry 18). -/
def Obligations.ExpandWritesTheSchedule : Prop :=
  encode .expand = 0x00000100 ∧
  ∀ s : State,
    (ScheduleLegal s → ∃ tail, exec .expand s = .next (afterSchedule s s.S tail)) ∧
    (∀ e, validate s = .error e → exec .expand s = .next (afterError s e))

/-- R195: `ENCRYPT` under the machine's invariant: with legal registers it replaces `S` by `Encrypt(S,
KEY[0..KEYLEN-1], ROUNDS)`, whether or not the schedule was valid; a failing validation raises its error and
changes four flags only. That `CMDR` is kept when the command has succeeded is no rule of the spec: it is the
model's choice (log entry 18). -/
def Obligations.EncryptReplacesBlock : Prop :=
  encode .encrypt = 0x00000200 ∧
  ∀ s : State, EngineInv s →
    (ScheduleLegal s → ∃ tail, exec .encrypt s = .next (afterSchedule s
      (encryptBlock romTables s.S (s.KEY.take s.KEYLEN.toNat) s.ROUNDS.toNat) tail)) ∧
    (∀ e, validate s = .error e → exec .encrypt s = .next (afterError s e))

/-- R215: `DECRYPT` under the machine's invariant, as `EncryptReplacesBlock`. That `CMDR` is kept when the command
has succeeded is no rule of the spec: it is the model's choice (log entry 18). -/
def Obligations.DecryptReplacesBlock : Prop :=
  encode .decrypt = 0x00000300 ∧
  ∀ s : State, EngineInv s →
    (ScheduleLegal s → ∃ tail, exec .decrypt s = .next (afterSchedule s
      (decryptBlock romTables s.S (s.KEY.take s.KEYLEN.toNat) s.ROUNDS.toNat) tail)) ∧
    (∀ e, validate s = .error e → exec .decrypt s = .next (afterError s e))

/-! ### The system commands (45_system_and_multiblock.md) -/

/-- R230: the accepted write of `NOP` sets `BUSY` and clears `DONE` and `ERRCODE`; the command then completes,
clearing a previous `ERRCODE` and touching neither `ESTICKY` nor anything else. That `CMDR` is kept when the
command has succeeded is no rule of the spec: it is the model's choice (log entry 18). -/
def Obligations.NopOnlyCompletes : Prop :=
  encode .nop = 0x00000000 ∧
  ∀ s : State, exec .nop s = .next (afterUnit s s.S) ∧
    (s.BUSY = false → (writeReg s .cmd 0).BUSY = true ∧ (writeReg s .cmd 0).DONE = false ∧
      (writeReg s .cmd 0).ERRCODE = .eNone ∧ decode (writeReg s .cmd 0).CMDR = .ok .nop)

/-- R231: `RESET` completes with `DONE = 0`: every piece of state that R44 gives a reset value takes it, and the
effect is that of the reset input; it is the only command that clears `ESTICKY`, and writing it while a command
runs does nothing. (`W` and `CMDR`, which R44 leaves unspecified, are not spoken of. That the host's lists `script`
and `log` are kept is no rule of the spec: it is the model's choice, log entry 5.) -/
def Obligations.ResetCommandRestoresResetState : Prop :=
  encode .reset = 0x0000FF00 ∧
  (∀ s : State,
    (∃ t, exec .reset s = .next t ∧
      t.S = Block.ofFn (fun _ => 0) ∧ t.KEY = List.replicate (4 * s.params.nkMax) 0 ∧
      t.KEYLEN = 0 ∧ t.ROUNDS = 0 ∧ t.WIDX = 0 ∧
      t.KS_VALID = false ∧ t.KS_NK = 0 ∧ t.KS_R = 0 ∧
      t.BUSY = false ∧ t.DONE = false ∧ t.ESTICKY = false ∧ t.ERRCODE = .eNone ∧
      t.params = s.params ∧ regValue t .status = 0 ∧ t.script = s.script ∧ t.log = s.log) ∧
    hostAct .rst s = exec .reset s ∧
    (s.BUSY = true → writeReg s .cmd (encode .reset) = s)) ∧
  ∀ (s t : State) (i : Instr), i ≠ .reset → exec i s = .next t → s.ESTICKY = true → t.ESTICKY = true

/-- R44: the reset state of any instance: `STATUS` reads 0 after reset, and a command that needs the key fails with
`E_KEYLEN`. -/
def Obligations.ResetStateHoldsResetValues : Prop :=
  ∀ (p : Params) (t : State), t = State.resetOf p →
    t.S = Block.ofFn (fun _ => 0) ∧ t.KEY = List.replicate (4 * p.nkMax) 0 ∧
    t.KEYLEN = 0 ∧ t.ROUNDS = 0 ∧ t.WIDX = 0 ∧ t.W.length = 4 * (p.rMax + 1) ∧
    t.KS_VALID = false ∧ t.KS_NK = 0 ∧ t.KS_R = 0 ∧
    t.BUSY = false ∧ t.DONE = false ∧ t.ESTICKY = false ∧ t.ERRCODE = .eNone ∧ t.params = p ∧
    regValue t .status = 0 ∧
    ∀ i, NeedsSchedule i → exec i t = .next (afterError t .eKeylen)

/-! ### Validation and errors (42_key_schedule.md R160, 60_exceptions.md) -/

/-- R160: `Validate` makes its five checks in order, the first that fails decides the error; after success the
sizes are in range. -/
def Obligations.ValidationChecksInOrder : Prop :=
  ∀ s : State, s.params.ok →
    (¬ KeylenFormed s → validate s = .error .eKeylen) ∧
    (KeylenFormed s → s.KEYLEN.toNat / 4 > s.params.nkMax → validate s = .error .eRange) ∧
    (KeylenFormed s → s.KEYLEN.toNat / 4 ≤ s.params.nkMax → s.ROUNDS = 0 → validate s = .error .eRounds) ∧
    (KeylenFormed s → s.KEYLEN.toNat / 4 ≤ s.params.nkMax → s.ROUNDS ≠ 0 →
      s.ROUNDS.toNat > s.params.rMax → validate s = .error .eRange) ∧
    (KeylenFormed s → s.KEYLEN.toNat / 4 ≤ s.params.nkMax → s.ROUNDS ≠ 0 → s.ROUNDS.toNat ≤ s.params.rMax →
      4 * (s.ROUNDS.toNat + 1) < s.KEYLEN.toNat / 4 → validate s = .error .eRounds) ∧
    (ScheduleLegal s → validate s = .ok (s.KEYLEN.toNat / 4, s.ROUNDS.toNat)) ∧
    (∀ nk R, validate s = .ok (nk, R) →
      ScheduleLegal s ∧ nk = s.KEYLEN.toNat / 4 ∧ R = s.ROUNDS.toNat ∧ 1 ≤ nk ∧ nk ≤ s.params.nkMax ∧
      1 ≤ R ∧ R ≤ s.params.rMax ∧ nk ≤ 4 * (R + 1) ∧ 4 * (R + 1) ≤ s.params.wDepth ∧ s.params.wDepth ≤ 256)

/-- R260: of several causes the first in the fixed order is reported by the core's step. -/
def Obligations.FirstFailingCheckIsReported : Prop :=
  ∀ s : State,
    ((∃ e, decode s.CMDR = .error e) → coreStep s = .next (afterError s .eCmd)) ∧
    (∀ i, decode s.CMDR = .ok i → NeedsSchedule i →
      (¬ KeylenFormed s → coreStep s = .next (afterError s .eKeylen)) ∧
      (KeylenFormed s → s.KEYLEN.toNat / 4 > s.params.nkMax → coreStep s = .next (afterError s .eRange)) ∧
      (KeylenFormed s → s.KEYLEN.toNat / 4 ≤ s.params.nkMax → s.ROUNDS = 0 →
        coreStep s = .next (afterError s .eRounds)) ∧
      (KeylenFormed s → s.KEYLEN.toNat / 4 ≤ s.params.nkMax → s.ROUNDS ≠ 0 →
        s.ROUNDS.toNat > s.params.rMax → coreStep s = .next (afterError s .eRange)) ∧
      (KeylenFormed s → s.KEYLEN.toNat / 4 ≤ s.params.nkMax → s.ROUNDS ≠ 0 →
        s.ROUNDS.toNat ≤ s.params.rMax → 4 * (s.ROUNDS.toNat + 1) < s.KEYLEN.toNat / 4 →
        coreStep s = .next (afterError s .eRounds)) ∧
      (ScheduleLegal s → ∀ n, i = .addkey n → n > s.ROUNDS.toNat → coreStep s = .next (afterError s .eIndex)))

/-- R250: the codes of `ERRCODE`; none beyond 5; which command can end with which, and the cause each code names.
Code 0 is what reset and an accepted `CMD` write leave. -/
def Obligations.ErrorCodesAndTheirRaisers : Prop :=
  (errBits .eNone = 0 ∧ errBits .eCmd = 1 ∧ errBits .eKeylen = 2 ∧ errBits .eRounds = 3 ∧ errBits .eRange = 4 ∧
    errBits .eIndex = 5 ∧ ∀ e, (errBits e).toNat ≤ 5) ∧
  (∀ (p : Params) (v : Reg32) (s : State), s.BUSY = false →
    (State.resetOf p).ERRCODE = .eNone ∧ (writeReg s .cmd v).ERRCODE = .eNone) ∧
  (∀ (s t : State), coreStep s = .next t → (t.ERRCODE = .eCmd ↔ ∃ e, decode s.CMDR = .error e)) ∧
  (∀ (s t : State) (i : Instr), exec i s = .next t →
    (t.ERRCODE ≠ .eCmd) ∧
    (t.ERRCODE ≠ .eNone → NeedsSchedule i) ∧
    (t.ERRCODE = .eKeylen → ¬ KeylenFormed s) ∧
    (t.ERRCODE = .eRounds → s.ROUNDS = 0 ∨ 4 * (s.ROUNDS.toNat + 1) < s.KEYLEN.toNat / 4) ∧
    (t.ERRCODE = .eRange → s.KEYLEN.toNat / 4 > s.params.nkMax ∨ s.ROUNDS.toNat > s.params.rMax) ∧
    (t.ERRCODE = .eIndex → ∃ n, i = .addkey n ∧ n > s.ROUNDS.toNat))

/-- The engine has no hang and no stuck command (R276, R78): every command, in every state, answers a next
state in which it is no longer running, and `DONE` is set after every command but `RESET`. -/
def Obligations.EveryCommandEnds : Prop :=
  ∀ (s : State) (i : Instr), ∃ t, exec i s = .next t ∧ t.BUSY = false ∧ (t.DONE = true ↔ i ≠ .reset)

/-- R29, R231: no command but `RESET` clears `ESTICKY`, and none but `RESET` writes the key, the key length, the
round count or the read index (R78: only a command's own updates are applied); no command at all changes the
parameters (R9, R38). The model's choices, no rules of the spec: no command, `RESET` included, changes the model's
own `script` and `log` (log entry 5), `lag` (log entry 6) and `draws` (log entry 7), and none but `RESET` changes
`CMDR`, which may hold any value while `BUSY = 0` (log entry 18). -/
def Obligations.OnlyResetClearsHostRegisters : Prop :=
  ∀ (s t : State) (i : Instr), exec i s = .next t →
    (t.params = s.params ∧ t.script = s.script ∧ t.log = s.log ∧ t.lag = s.lag ∧ t.draws = s.draws) ∧
    (i ≠ .reset →
      (s.ESTICKY = true → t.ESTICKY = true) ∧ t.KEY = s.KEY ∧ t.KEYLEN = s.KEYLEN ∧ t.ROUNDS = s.ROUNDS ∧
      t.WIDX = s.WIDX ∧ t.CMDR = s.CMDR)

/-- A step faults never, and refuses only a host access that the port cannot express (R276, R59; that the model
answers it with a refusal is log entry 8). -/
def Obligations.StepRefusesOnlyInexpressibleAccess : Prop :=
  ∀ s : State, (∃ t, step s = .next t) ∨
    ∃ a rest size offset, s.script = a :: rest ∧ step s = .refused (.portCannotExpress size offset) ∧
      (a = .read size offset ∨ ∃ v, a = .write size offset v) ∧
      ¬ (size = .word ∧ offset % 4 = 0 ∧ offset ≤ 0x1FC)

/-! ### The field and the tables (40_field_and_tables.md) -/

/-- R90: `Double` bit by bit. -/
def Obligations.DoubleBitByBit : Prop :=
  ∀ a : Byte,
    double a = (a <<< 1) ^^^ (if a.getLsbD 7 then 0x1B else 0x00) ∧
    (double a).getLsbD 0 = a.getLsbD 7 ∧
    (double a).getLsbD 1 = (a.getLsbD 0 ^^ a.getLsbD 7) ∧
    (double a).getLsbD 2 = a.getLsbD 1 ∧
    (double a).getLsbD 3 = (a.getLsbD 2 ^^ a.getLsbD 7) ∧
    (double a).getLsbD 4 = (a.getLsbD 3 ^^ a.getLsbD 7) ∧
    (double a).getLsbD 5 = a.getLsbD 4 ∧
    (double a).getLsbD 6 = a.getLsbD 5 ∧
    (double a).getLsbD 7 = a.getLsbD 6

/-- R91: `Double` is linear, fixes zero, is a bijection with the inverse given, and has order 51; its values. -/
def Obligations.DoubleLawsAndValues : Prop :=
  (∀ a b : Byte, double a ^^^ double b = double (a ^^^ b)) ∧
  double 0x00 = 0x00 ∧
  (∀ a : Byte, ((double a) >>> 1) ^^^ (if (double a).getLsbD 0 then 0x8D else 0x00) = a) ∧
  (∀ a : Byte, double ((a >>> 1) ^^^ (if a.getLsbD 0 then 0x8D else 0x00)) = a) ∧
  (∀ a : Byte, doubleN 51 a = a) ∧ (∀ k, 0 < k → k < 51 → doubleN k 0x01 ≠ 0x01) ∧
  double 0x01 = 0x02 ∧ double 0x57 = 0xAE ∧ double 0xAE = 0x47 ∧ double 0x47 = 0x8E ∧ double 0x8E = 0x07 ∧
  double 0x80 = 0x1B ∧ double 0x7F = 0xFE ∧ double 0xFF = 0xE5 ∧ double 0x1B = 0x36 ∧ double 0x8D = 0x01

/-- R94: the derived product is the exclusive-or of repeated doublings; it is commutative, associative, distributes over exclusive-or, and has the values
given. -/
def Obligations.FieldProductLaws : Prop :=
  (∀ a b : Byte, gfMul a b =
    (List.range 8).foldl (fun acc k => acc ^^^ if b.getLsbD k then doubleN k a else 0) 0) ∧
  (∀ a b : Byte, gfMul a b = gfMul b a) ∧
  (∀ a b c : Byte, gfMul (gfMul a b) c = gfMul a (gfMul b c)) ∧
  (∀ a b c : Byte, gfMul a (b ^^^ c) = gfMul a b ^^^ gfMul a c) ∧
  (∀ a b c : Byte, gfMul (a ^^^ b) c = gfMul a c ^^^ gfMul b c) ∧
  (∀ a : Byte, gfMul a 0x01 = a ∧ gfMul a 0x02 = double a ∧ gfMul a 0x00 = 0x00) ∧
  gfMul 0x57 0x83 = 0xC1 ∧ gfMul 0x57 0x13 = 0xFE ∧ gfMul 0x53 0xCA = 0x01

/-- R100: every entry of `SBOX` is the affine image of the field inverse of its address (the contents the commands
use are log entry 11). -/
def Obligations.SboxIsAffineOfInverse : Prop :=
  subByte romTables 0x53 = 0xED ∧
  ∀ a : Byte, ∃ b : Byte, (if a = 0 then b = 0 else gfMul a b = 0x01) ∧ subByte romTables a = affine b

/-- R103: `SBOX` is a bijection with no fixed point and no opposite fixed point. -/
def Obligations.SboxIsBijectionWithoutFixedPoints : Prop :=
  Function.Bijective (subByte romTables) ∧
  ∀ a : Byte, subByte romTables a ≠ a ∧ subByte romTables a ≠ a ^^^ 0xFF

/-- R107: the two substitutions are exact inverses, on bytes and so on matrices. -/
def Obligations.SubstitutionsInvertEachOther : Prop :=
  (∀ a : Byte, invSubByte romTables (subByte romTables a) = a ∧ subByte romTables (invSubByte romTables a) = a) ∧
  ∀ m : Mat4, invSubBytes romTables (subBytes romTables m) = m ∧ subBytes romTables (invSubBytes romTables m) = m

/-- R108: the recurrence that fills `RCON`, its first entries, and its period. -/
def Obligations.RoundConstantsByDoubling : Prop :=
  roundConstant romTables 0 = 0x00 ∧ roundConstant romTables 1 = 0x01 ∧
  (∀ j, 1 ≤ j → j < 255 → roundConstant romTables (j + 1) = double (roundConstant romTables j)) ∧
  (∀ j, 1 ≤ j → j + 51 ≤ 255 → roundConstant romTables (j + 51) = roundConstant romTables j) ∧
  (List.range 11).map (roundConstant romTables) =
    [0x00, 0x01, 0x02, 0x04, 0x08, 0x10, 0x20, 0x40, 0x80, 0x1B, 0x36]

/-! ### The transforms (41_state_transforms.md) -/

/-- R120, R121: the conversions between block and matrix by index, inverse to each other. -/
def Obligations.BlockMatrixConversions : Prop :=
  (∀ (b : Block) (i j : Fin 4), (toMatrix b).get i j = b.get ⟨4 * i + j, by omega⟩) ∧
  (∀ (m : Mat4) (i j : Fin 4), (toBlock m).get ⟨4 * i + j, by omega⟩ = m.get i j) ∧
  (∀ b : Block, toBlock (toMatrix b) = b) ∧ (∀ m : Mat4, toMatrix (toBlock m) = m)

/-- R124, R125: the bare rotations by index, inverse to each other. -/
def Obligations.BareRotationsInvertEachOther : Prop :=
  (∀ (m : Mat4) (i j k : Fin 4), k.val = (j.val + i.val) % 4 → (rotRowsLeft m).get i j = m.get i k) ∧
  (∀ (m : Mat4) (i j k : Fin 4), k.val = (j.val + 4 - i.val) % 4 → (rotRowsRight m).get i j = m.get i k) ∧
  (∀ m : Mat4, rotRowsRight (rotRowsLeft m) = m ∧ rotRowsLeft (rotRowsRight m) = m)

/-- R130: how the two row shifts, with the transposes they carry, invert each other. -/
def Obligations.RowShiftsInvertThroughTranspose : Prop :=
  (∀ m : Mat4, rowShiftRight (transpose (rowShiftLeft m)) = transpose m) ∧
  (∀ m : Mat4, transpose (rowShiftRight (transpose (rowShiftLeft m))) = m) ∧
  (∃ m : Mat4, rowShiftRight (rowShiftLeft m) ≠ m ∧ rowShiftRight (rowShiftLeft m) ≠ transpose m)

/-- R132: `MixWord` is the field matrix `02 03 01 01` and its rotations, it is linear, and its values. -/
def Obligations.MixWordIsFieldMatrix : Prop :=
  (∀ (c : Word4) (i : Fin 4), (mixWord c).get i =
    gfMul (c.get i) 0x02 ^^^ gfMul (c.get (i + 1)) 0x03 ^^^ c.get (i + 2) ^^^ c.get (i + 3)) ∧
  (∀ a b : Word4, mixWord (a.xor b) = (mixWord a).xor (mixWord b)) ∧
  mixWord ⟨0xDB, 0x13, 0x53, 0x45⟩ = ⟨0x8E, 0x4D, 0xA1, 0xBC⟩ ∧
  mixWord ⟨0xF2, 0x0A, 0x22, 0x5C⟩ = ⟨0x9F, 0xDC, 0x58, 0x9D⟩ ∧
  mixWord ⟨0x01, 0x01, 0x01, 0x01⟩ = ⟨0x01, 0x01, 0x01, 0x01⟩ ∧
  mixWord ⟨0xC6, 0xC6, 0xC6, 0xC6⟩ = ⟨0xC6, 0xC6, 0xC6, 0xC6⟩ ∧
  mixWord ⟨0xD4, 0xBF, 0x5D, 0x30⟩ = ⟨0x04, 0x66, 0x81, 0xE5⟩ ∧
  mixWord ⟨0x00, 0x00, 0x00, 0x00⟩ = ⟨0x00, 0x00, 0x00, 0x00⟩

/-- R137: the two transposes of `InvColumnMix` cancel; on each word it is the field matrix `0E 0B 0D 09` and its
rotations, and it inverts `MixWord`; its values. -/
def Obligations.InverseColumnMixForms : Prop :=
  (∀ m : Mat4, invColumnMix m = columnMix (transpose (preMixRows m)) ∧ invColumnMix m = mixRows (preMixRows m)) ∧
  (∀ (c : Word4) (i : Fin 4), (mixWord (preMixWord c)).get i =
    gfMul (c.get i) 0x0E ^^^ gfMul (c.get (i + 1)) 0x0B ^^^ gfMul (c.get (i + 2)) 0x0D ^^^
      gfMul (c.get (i + 3)) 0x09) ∧
  (∀ c : Word4, mixWord (preMixWord (mixWord c)) = c) ∧
  preMixWord ⟨0x8E, 0x4D, 0xA1, 0xBC⟩ = ⟨0x32, 0xA4, 0x1D, 0x55⟩ ∧
  mixWord (preMixWord ⟨0x8E, 0x4D, 0xA1, 0xBC⟩) = ⟨0xDB, 0x13, 0x53, 0x45⟩ ∧
  mixWord (preMixWord ⟨0x04, 0x66, 0x81, 0xE5⟩) = ⟨0xD4, 0xBF, 0x5D, 0x30⟩

/-- R139: how the two column mixes invert each other, on matrices and as commands: `MIX` then `IMIX` leaves `S`
transposed, and `XPOSE` then restores it. -/
def Obligations.ColumnMixesInvertUpToTranspose : Prop :=
  (∀ m : Mat4, invColumnMix (columnMix m) = transpose m) ∧
  (∀ m : Mat4, mixRows (preMixRows (mixRows m)) = m) ∧
  (∀ s : State, ∃ t u v, exec .mix s = .next t ∧ exec .imix t = .next u ∧ exec .xpose u = .next v ∧
    u.S = toBlock (transpose (toMatrix s.S)) ∧ v.S = s.S)

/-- R141: round-key application is its own inverse, and commutes with the transpose of both arguments. -/
def Obligations.AddRoundKeyLaws : Prop :=
  ∀ m k : Mat4, addRoundKey (addRoundKey m k) k = m ∧
    transpose (addRoundKey m k) = addRoundKey (transpose m) (transpose k)

/-! ### The key schedule (42_key_schedule.md) -/

/-- R163: `Expand` for any tables: `L = 4*(R+1)` words, the first `Nk` the key's, every later word made from the
two words named by the branch its index takes. -/
def Obligations.ExpandFollowsItsRecurrence : Prop :=
  ∀ (T : Tables) (key : List Byte) (nk R : Nat), key.length = 4 * nk → 1 ≤ nk → 1 ≤ R → nk ≤ 4 * (R + 1) →
    (expand T key R).length = 4 * (R + 1) ∧
    (∀ j, j < nk → (expand T key R).getD j .zero =
      ⟨key.getD (4 * j) 0, key.getD (4 * j + 1) 0, key.getD (4 * j + 2) 0, key.getD (4 * j + 3) 0⟩) ∧
    (∀ i, nk ≤ i → i < 4 * (R + 1) →
      ∀ prev back : Word4, prev = (expand T key R).getD (i - 1) .zero →
        back = (expand T key R).getD (i - nk) .zero →
        (i % nk = 0 → (expand T key R).getD i .zero =
          (addRcon T (subWord T (rotWord prev)) (i / nk)).xor back) ∧
        (i % nk ≠ 0 → nk > 6 → i % nk = 4 → (expand T key R).getD i .zero = (subWord T prev).xor back) ∧
        (i % nk ≠ 0 → ¬ (nk > 6 ∧ i % nk = 4) → (expand T key R).getD i .zero = prev.xor back))

/-- R167: length, prefix and key-word properties of `Expand`, for any tables. -/
def Obligations.ExpandLengthAndPrefix : Prop :=
  ∀ (T : Tables) (key : List Byte) (nk R : Nat), key.length = 4 * nk → 1 ≤ nk → 1 ≤ R → nk ≤ 4 * (R + 1) →
    (expand T key R).length = 4 * (R + 1) ∧
    (∀ R', R ≤ R' → expand T key R = (expand T key R').take (4 * (R + 1))) ∧
    (expand T key R).take nk = keyWords key ∧ (keyWords key).length = nk

/-- R164 (a), (e): `RCON` has 256 entries, and in a schedule of at most 256 words the constant index of a word is
at least 1 and names one of them, the one that is looked up; a valid schedule of at most 256 words reads no entry
but 1 to 255, since tables that agree there and on `SBOX` give the same schedule; where `L = Nk` the schedule is the
key's words (at `R = 0`, which the spec does not define, this is the model's choice, log entry 19). -/
def Obligations.ScheduleIndexFacts : Prop :=
  romTables.rcon.flatten.length = 256 ∧
  (∀ nk i : Nat, 1 ≤ nk → nk ≤ i → i ≤ 255 →
    1 ≤ i / nk ∧ i / nk ≤ 255 ∧ romTables.rcon.flatten[i / nk]? = some (roundConstant romTables (i / nk))) ∧
  (∀ (T T' : Tables) (key : List Byte) (nk R : Nat),
    key.length = 4 * nk → 1 ≤ nk → 1 ≤ R → nk ≤ 4 * (R + 1) → 4 * (R + 1) ≤ 256 →
    T'.sbox = T.sbox → (∀ j, 1 ≤ j → j ≤ 255 → roundConstant T' j = roundConstant T j) →
    expand T' key R = expand T key R) ∧
  (∀ (T : Tables) (key : List Byte) (R : Nat), key.length = 4 * (4 * (R + 1)) → expand T key R = keyWords key)

/-! ### The pipelines (43_forward_pipeline.md, 44_inverse_pipeline.md) -/

/-- R191, R193: the forward pipeline applies slices 0 to `R` in order: with `R = 1` its loop is empty, and one
round more is one full round between the rounds before and the final round. -/
def Obligations.ForwardPipelineUnrolls : Prop :=
  ∀ (T : Tables) (m : Mat4) (w : List Word4),
    encryptM T m w 1 = addRoundKey (transpose (rowShiftLeft (subBytes T (addRoundKey m (slice w 0))))) (slice w 1) ∧
    ∀ R, 1 ≤ R → ∃ x : Mat4,
      encryptM T m w R = addRoundKey (transpose (rowShiftLeft (subBytes T x))) (slice w R) ∧
      encryptM T m w (R + 1) = addRoundKey (transpose (rowShiftLeft (subBytes T
        (addRoundKey (columnMix (rowShiftLeft (subBytes T x))) (slice w R))))) (slice w (R + 1))

/-- R213: the three lemmas by which the inverse pipeline undoes the forward one, for any tables that invert each
other. -/
def Obligations.InverseRoundsUndoForwardRounds : Prop :=
  ∀ T : Tables, (∀ a, invSubByte T (subByte T a) = a) →
    (∀ m k : Mat4, invSubBytes T (rowShiftRight (addRoundKey (finalRound T k m) k)) = transpose m) ∧
    (∀ m k : Mat4, inverseRound T k (transpose (forwardRound T k m)) = transpose m) ∧
    (∀ m k : Mat4, addRoundKey (transpose (transpose (addRoundKey m k))) k = m)

/-- The round trip on matrices for any tables that invert each other and ANY schedule words, in both directions
(R214, R213). -/
def Obligations.PipelinesInvertForAnyTables : Prop :=
  ∀ T : Tables, (∀ a, invSubByte T (subByte T a) = a) → (∀ a, subByte T (invSubByte T a) = a) →
    ∀ (m : Mat4) (w : List Word4) (R : Nat), 1 ≤ R →
      decryptM T (encryptM T m w R) w R = m ∧ encryptM T (decryptM T m w R) w R = m

/-- R214, the primary correctness property: decryption inverts encryption and encryption decryption, for every
block, key of valid length and round count; and as commands, from every state that meets the invariant with legal
registers. -/
def Obligations.RoundTripRestoresBlock : Prop :=
  (∀ (b : Block) (key : List Byte) (nk R : Nat), key.length = 4 * nk → 1 ≤ nk → 1 ≤ R → nk ≤ 4 * (R + 1) →
    decryptBlock romTables (encryptBlock romTables b key R) key R = b ∧
    encryptBlock romTables (decryptBlock romTables b key R) key R = b) ∧
  (∀ s : State, EngineInv s → ScheduleLegal s →
    (∃ t u, exec .encrypt s = .next t ∧ exec .decrypt t = .next u ∧ u.S = s.S) ∧
    (∃ t u, exec .decrypt s = .next t ∧ exec .encrypt t = .next u ∧ u.S = s.S))

/-- R235, R237, R214: the functions on messages: a malformed length computes nothing, a message of blocks is processed
block by block, two blocks give the concatenation, and decryption inverts encryption (R214, block by block). (Where `Expand` is not
defined, `Encrypt` and `Decrypt` are the model's choice, log entry 19.) -/
def Obligations.MessagesAreProcessedBlockByBlock : Prop :=
  ∀ (key : List Byte) (R : Nat),
    (∀ msg : List Byte, (msg.length = 0 ∨ msg.length % 16 ≠ 0) →
      encryptECB romTables msg key R = none ∧ decryptECB romTables msg key R = none) ∧
    (∀ msg : List Byte, msg.length ≠ 0 → msg.length % 16 = 0 →
      ∃ bs : List Block, bs ≠ [] ∧ msg = bs.flatMap Block.toList ∧ 16 * bs.length = msg.length) ∧
    (∀ bs : List Block, bs ≠ [] →
      encryptECB romTables (bs.flatMap Block.toList) key R =
        some (bs.flatMap fun b => (encryptBlock romTables b key R).toList) ∧
      decryptECB romTables (bs.flatMap Block.toList) key R =
        some (bs.flatMap fun b => (decryptBlock romTables b key R).toList)) ∧
    (∀ msg : List Byte, msg.length ≠ 0 → msg.length % 16 = 0 → 1 ≤ R →
      (encryptECB romTables msg key R).bind (fun c => decryptECB romTables c key R) = some msg)

/-! ### The host port (10_state.md, 20_memory.md) -/

/-- R54: packing and unpacking, inverse to each other, the first byte most significant. -/
def Obligations.PackingIsBigEndian : Prop :=
  (∀ w : Word4, packWord w = (w.b0.setWidth 32 <<< 24) ||| (w.b1.setWidth 32 <<< 16) |||
    (w.b2.setWidth 32 <<< 8) ||| w.b3.setWidth 32) ∧
  (∀ v : Reg32, unpackWord v =
    ⟨v.extractLsb' 24 8, v.extractLsb' 16 8, v.extractLsb' 8 8, v.extractLsb' 0 8⟩) ∧
  (∀ w : Word4, unpackWord (packWord w) = w) ∧ (∀ v : Reg32, packWord (unpackWord v) = v)

/-- R33: the fields of `STATUS`. -/
def Obligations.StatusFields : Prop :=
  ∀ s : State,
    (regValue s .status).getLsbD 0 = s.BUSY ∧ (regValue s .status).getLsbD 1 = s.DONE ∧
    (regValue s .status).getLsbD 2 = s.KS_VALID ∧ (regValue s .status).getLsbD 3 = s.ESTICKY ∧
    (regValue s .status).extractLsb' 4 4 = errBits s.ERRCODE ∧
    (regValue s .status).extractLsb' 8 8 = s.KS_NK ∧ (regValue s .status).extractLsb' 16 8 = s.KS_R ∧
    (regValue s .status).extractLsb' 24 8 = 0 ∧
    (∀ v, acceptWrite s .status v = s)

/-- R31, R41, R56, R57, R59: the register map: each named register at its offset; an access the port can express is
the read or the write of the register at its offset; every other such offset is reserved, reading 0 and ignoring
writes; an access the port cannot express is refused (log entry 8). -/
def Obligations.RegisterMapAndReservedOffsets : Prop :=
  ∀ s : State, s.params.nkMax ≤ 64 →
    (regAt s.params 0x000 = .cmd ∧ regAt s.params 0x004 = .status ∧ regAt s.params 0x008 = .keylen ∧
      regAt s.params 0x00C = .rounds ∧ regAt s.params 0x010 = .widx ∧ regAt s.params 0x014 = .wdata ∧
      regAt s.params 0x018 = .params) ∧
    (∀ i : Fin 4, regAt s.params (0x020 + 4 * i) = .sw i) ∧
    (∀ j, j < s.params.nkMax → regAt s.params (0x100 + 4 * j) = .keyw j) ∧
    (∀ offset v, offset % 4 = 0 → offset ≤ 0x1FC →
      hostAct (.read .word offset) s = .next (readReg s offset (regAt s.params offset)) ∧
      hostAct (.write .word offset v) s = .next (writeReg s (regAt s.params offset) v)) ∧
    (∀ offset, offset % 4 = 0 →
      (offset = 0x01C ∨ (0x030 ≤ offset ∧ offset ≤ 0x0FC) ∨
        (0x100 + 4 * s.params.nkMax ≤ offset ∧ offset ≤ 0x1FC)) →
      hostAct (.read .word offset) s = .next (logRead s offset 0) ∧
      ∀ v, hostAct (.write .word offset v) s = .next s) ∧
    (∀ size offset v, ¬ (size = .word ∧ offset % 4 = 0 ∧ offset ≤ 0x1FC) →
      hostAct (.read size offset) s = .refused (.portCannotExpress size offset) ∧
      hostAct (.write size offset v) s = .refused (.portCannotExpress size offset))

/-- R56: what a host read gives and that it changes no state of the engine. While a command runs `SW[i]` and
`WDATA` give a free value, whatever it is (log entry 7); every other read gives the register's value. That a read
appends to `log` and keeps `script` and `lag`, the model's own fields, is no rule of the spec: it is the model's
choice (log entries 5 and 6). -/
def Obligations.HostReadsChangeNothing : Prop :=
  ∀ (s : State) (offset : Nat) (r : Reg),
    SameEngine (readReg s offset r) s ∧
    (readReg s offset r).script = s.script ∧ (readReg s offset r).lag = s.lag ∧
    (∃ v, (readReg s offset r).log = s.log ++ [(offset, v)]) ∧
    (s.BUSY = false ∨ ((∀ i, r ≠ .sw i) ∧ r ≠ .wdata) →
      (readReg s offset r).log = s.log ++ [(offset, regValue s r)]) ∧
    (regValue s .cmd = 0 ∧ regValue s .reserved = 0 ∧ regValue s .keylen = s.KEYLEN ∧
      regValue s .rounds = s.ROUNDS ∧ regValue s .widx = s.WIDX ∧ regValue s .status = statusWord s ∧
      (regValue s .params).extractLsb' 0 8 = BitVec.ofNat 8 s.params.nkMax ∧
      (regValue s .params).extractLsb' 8 8 = BitVec.ofNat 8 s.params.rMax ∧
      (regValue s .params).extractLsb' 16 16 = 0 ∧
      (∀ i, regValue s (.sw i) = packWord (s.S.word i)) ∧ (∀ j, regValue s (.keyw j) = packWord (keyWord s j)))

/-- R57: what a host write does: dropped while a command runs, else the effect of its register. That clearing the tag
writes no word of `W`, which the spec leaves any value then, is read from the spec by inference (log entry 4); what an
accepted write to `CMD` draws for `lag` is the model's own (log entries 6 and 7). -/
def Obligations.HostWritesByRegister : Prop :=
  ∀ (s : State) (v : Reg32),
    (s.BUSY = true → ∀ r, writeReg s r v = s) ∧
    (s.BUSY = false →
      (∃ n k, writeReg s .cmd v =
        { s with CMDR := v, BUSY := true, DONE := false, ERRCODE := .eNone, lag := n, draws := k }) ∧
      writeReg s .keylen v = { s with KEYLEN := v, KS_VALID := false, KS_NK := 0, KS_R := 0 } ∧
      writeReg s .rounds v = { s with ROUNDS := v, KS_VALID := false, KS_NK := 0, KS_R := 0 } ∧
      (∀ j, writeReg s (.keyw j) v =
        { s with KEY := setKeyBytes s.KEY j (unpackWord v), KS_VALID := false, KS_NK := 0, KS_R := 0 }) ∧
      writeReg s .widx v = { s with WIDX := v } ∧
      (∀ i, writeReg s (.sw i) v = { s with S := s.S.setWord i (unpackWord v) }) ∧
      writeReg s .status v = s ∧ writeReg s .wdata v = s ∧ writeReg s .params v = s ∧
      writeReg s .reserved v = s)

/-- R39, R40: a register of the block or of the key reads back what was written, and its neighbours keep what
they held. -/
def Obligations.BlockAndKeyReadAfterWrite : Prop :=
  ∀ (s : State) (v : Reg32), s.BUSY = false → Memory.wf s →
    (∀ i, regValue (writeReg s (.sw i) v) (.sw i) = v ∧
      ∀ k, k ≠ i → regValue (writeReg s (.sw i) v) (.sw k) = regValue s (.sw k)) ∧
    (∀ j, j < s.params.nkMax → regValue (writeReg s (.keyw j) v) (.keyw j) = v ∧
      ∀ k, k ≠ j → regValue (writeReg s (.keyw j) v) (.keyw k) = regValue s (.keyw k))

/-- R37 under the invariant: `WDATA` shows exactly the words that `Expand` returns for the registers, and 0
otherwise; writes to it are ignored. -/
def Obligations.WdataShowsTheSchedule : Prop :=
  ∀ s : State, EngineInv s →
    (s.KS_VALID = true → s.WIDX.toNat < 4 * (s.ROUNDS.toNat + 1) →
      regValue s .wdata = packWord ((currentSchedule s).getD s.WIDX.toNat .zero)) ∧
    ((s.KS_VALID = false ∨ 4 * (s.ROUNDS.toNat + 1) ≤ s.WIDX.toNat) → regValue s .wdata = 0) ∧
    (∀ v, writeReg s .wdata v = s)

/-- R80: a `WAIT` reads `STATUS`; while `BUSY` reads 1 it stays the next host action, and once it reads 0 it is
done; it changes no state of the engine. One poll a step is the model's choice (log entry 14). -/
def Obligations.WaitPollsStatus : Prop :=
  ∀ (s : State) (rest : List HostAction), s.script = .wait :: rest → coreMoves s = false →
    ∃ t, step s = .next t ∧ SameEngine t s ∧ t.log = s.log ++ [(0x004, regValue s .status)] ∧
      (s.BUSY = true → (regValue s .status).getLsbD 0 = true ∧ t.script = .wait :: rest) ∧
      (s.BUSY = false → (regValue s .status).getLsbD 0 = false ∧ t.script = rest)

/-! ### Agents, ordering, whole-machine rules -/

/-- R62 (d), R291: while a command runs, no host action but the reset input changes the engine. -/
def Obligations.BusyEngineIgnoresTheHost : Prop :=
  ∀ (s t : State) (a : HostAction), s.BUSY = true → a ≠ .rst → hostAct a s = .next t → SameEngine t s

/-- What a command does to the engine depends on the engine alone: on two states with equal engines it gives
equal engines (R62, R78; that the host's lists and the counters are no part of the engine is the model's choice, log
entries 5, 6 and 7). That the equality covers `W` and `CMDR` after the command too is no rule of the spec, which leaves
them any value (R27, R44, V2, V3); it is the model's choice: after `RESET` it rests on the zeros of `W` (log entry 2)
and of `CMDR` (log entry 3), after any other command on what the model keeps in the words of `W` outside the schedule
(log entry 4) and in `CMDR` (log entry 18). -/
def Obligations.CommandsDependOnEngineOnly : Prop :=
  ∀ (s s' : State) (i : Instr), SameEngine s s' →
    ∃ t t', exec i s = .next t ∧ exec i s' = .next t' ∧ SameEngine t t'

/-- R292: progress. While a command runs and the host neither resets nor makes an access the port cannot express,
after finitely many steps it is the core's turn, and the engine is still as it was. The finite number, which the
spec leaves open, is the model's free value (log entry 6). -/
def Obligations.CoreTakesItsStepEventually : Prop :=
  ∀ s : State, s.BUSY = true → (∀ a ∈ s.script, a ≠ .rst ∧ Expressible a) →
    ∃ k u, k ≤ s.lag ∧ Host.Core.run Sys2Proof.core k s = .next u ∧ coreMoves u = true ∧ SameEngine u s

/-- The bytes of `KEY` at index `KEYLEN` and above are ignored by every command (R23, R285): two engines that
differ only there give equal results, each keeping its own upper key bytes. That the equality covers the words of `W`
outside the schedule (log entry 4), `CMDR` (log entry 18) and the model's own fields (log entries 5, 6 and 7) is no
rule of the spec: it is the model's choice. -/
def Obligations.UnusedKeyBytesAreIgnored : Prop :=
  ∀ (s : State) (key : List Byte) (i : Instr), i ≠ .reset →
    key.take s.KEYLEN.toNat = s.KEY.take s.KEYLEN.toNat →
    ∃ t, exec i s = .next t ∧ exec i { s with KEY := key } = .next { t with KEY := key }

/-- The invariant of the engine (the tag invariant R27 among its parts) is kept by every step. -/
def Obligations.StepKeepsInvariant : Prop :=
  ∀ s t : State, EngineInv s → step s = .next t → EngineInv t

/-- The invariant holds at reset, which is the reset state of the reference instance, the model's choice of sizes
(log entry 1): `PARAMS` reads 0x00003F10. -/
def Obligations.ResetMeetsInvariant : Prop :=
  EngineInv State.reset ∧ State.reset = State.resetOf ⟨16, 63⟩ ∧ regValue State.reset .params = 0x00003F10
end

