-- ==== Sys2Proof/Laws/State.lean ====
section
/-! SUPPORT. One lemma per field per update of the state, true by definition, so that no later proof unfolds a
record update. -/

namespace Sys2Proof.Machine

/-! completeOk -/

@[simp] theorem completeOk_params (s : State) : (completeOk s).params = s.params := rfl
@[simp] theorem completeOk_S (s : State) : (completeOk s).S = s.S := rfl
@[simp] theorem completeOk_KEY (s : State) : (completeOk s).KEY = s.KEY := rfl
@[simp] theorem completeOk_KEYLEN (s : State) : (completeOk s).KEYLEN = s.KEYLEN := rfl
@[simp] theorem completeOk_ROUNDS (s : State) : (completeOk s).ROUNDS = s.ROUNDS := rfl
@[simp] theorem completeOk_WIDX (s : State) : (completeOk s).WIDX = s.WIDX := rfl
@[simp] theorem completeOk_W (s : State) : (completeOk s).W = s.W := rfl
@[simp] theorem completeOk_KS_VALID (s : State) : (completeOk s).KS_VALID = s.KS_VALID := rfl
@[simp] theorem completeOk_KS_NK (s : State) : (completeOk s).KS_NK = s.KS_NK := rfl
@[simp] theorem completeOk_KS_R (s : State) : (completeOk s).KS_R = s.KS_R := rfl
@[simp] theorem completeOk_BUSY (s : State) : (completeOk s).BUSY = false := rfl
@[simp] theorem completeOk_DONE (s : State) : (completeOk s).DONE = true := rfl
@[simp] theorem completeOk_ESTICKY (s : State) : (completeOk s).ESTICKY = s.ESTICKY := rfl
@[simp] theorem completeOk_ERRCODE (s : State) : (completeOk s).ERRCODE = .eNone := rfl
@[simp] theorem completeOk_CMDR (s : State) : (completeOk s).CMDR = s.CMDR := rfl
@[simp] theorem completeOk_script (s : State) : (completeOk s).script = s.script := rfl
@[simp] theorem completeOk_log (s : State) : (completeOk s).log = s.log := rfl
@[simp] theorem completeOk_lag (s : State) : (completeOk s).lag = s.lag := rfl
@[simp] theorem completeOk_draws (s : State) : (completeOk s).draws = s.draws := rfl

/-! raiseErr -/

@[simp] theorem raiseErr_params (e : ErrCode) (s : State) : (raiseErr e s).params = s.params := rfl
@[simp] theorem raiseErr_S (e : ErrCode) (s : State) : (raiseErr e s).S = s.S := rfl
@[simp] theorem raiseErr_KEY (e : ErrCode) (s : State) : (raiseErr e s).KEY = s.KEY := rfl
@[simp] theorem raiseErr_KEYLEN (e : ErrCode) (s : State) : (raiseErr e s).KEYLEN = s.KEYLEN := rfl
@[simp] theorem raiseErr_ROUNDS (e : ErrCode) (s : State) : (raiseErr e s).ROUNDS = s.ROUNDS := rfl
@[simp] theorem raiseErr_WIDX (e : ErrCode) (s : State) : (raiseErr e s).WIDX = s.WIDX := rfl
@[simp] theorem raiseErr_W (e : ErrCode) (s : State) : (raiseErr e s).W = s.W := rfl
@[simp] theorem raiseErr_KS_VALID (e : ErrCode) (s : State) : (raiseErr e s).KS_VALID = s.KS_VALID := rfl
@[simp] theorem raiseErr_KS_NK (e : ErrCode) (s : State) : (raiseErr e s).KS_NK = s.KS_NK := rfl
@[simp] theorem raiseErr_KS_R (e : ErrCode) (s : State) : (raiseErr e s).KS_R = s.KS_R := rfl
@[simp] theorem raiseErr_BUSY (e : ErrCode) (s : State) : (raiseErr e s).BUSY = false := rfl
@[simp] theorem raiseErr_DONE (e : ErrCode) (s : State) : (raiseErr e s).DONE = true := rfl
@[simp] theorem raiseErr_ESTICKY (e : ErrCode) (s : State) : (raiseErr e s).ESTICKY = true := rfl
@[simp] theorem raiseErr_ERRCODE (e : ErrCode) (s : State) : (raiseErr e s).ERRCODE = e := rfl
@[simp] theorem raiseErr_CMDR (e : ErrCode) (s : State) : (raiseErr e s).CMDR = s.CMDR := rfl
@[simp] theorem raiseErr_script (e : ErrCode) (s : State) : (raiseErr e s).script = s.script := rfl
@[simp] theorem raiseErr_log (e : ErrCode) (s : State) : (raiseErr e s).log = s.log := rfl
@[simp] theorem raiseErr_lag (e : ErrCode) (s : State) : (raiseErr e s).lag = s.lag := rfl
@[simp] theorem raiseErr_draws (e : ErrCode) (s : State) : (raiseErr e s).draws = s.draws := rfl

/-! setS -/

@[simp] theorem setS_params (s : State) (b : Block) : (setS s b).params = s.params := rfl
@[simp] theorem setS_S (s : State) (b : Block) : (setS s b).S = b := rfl
@[simp] theorem setS_KEY (s : State) (b : Block) : (setS s b).KEY = s.KEY := rfl
@[simp] theorem setS_KEYLEN (s : State) (b : Block) : (setS s b).KEYLEN = s.KEYLEN := rfl
@[simp] theorem setS_ROUNDS (s : State) (b : Block) : (setS s b).ROUNDS = s.ROUNDS := rfl
@[simp] theorem setS_WIDX (s : State) (b : Block) : (setS s b).WIDX = s.WIDX := rfl
@[simp] theorem setS_W (s : State) (b : Block) : (setS s b).W = s.W := rfl
@[simp] theorem setS_KS_VALID (s : State) (b : Block) : (setS s b).KS_VALID = s.KS_VALID := rfl
@[simp] theorem setS_KS_NK (s : State) (b : Block) : (setS s b).KS_NK = s.KS_NK := rfl
@[simp] theorem setS_KS_R (s : State) (b : Block) : (setS s b).KS_R = s.KS_R := rfl
@[simp] theorem setS_BUSY (s : State) (b : Block) : (setS s b).BUSY = s.BUSY := rfl
@[simp] theorem setS_DONE (s : State) (b : Block) : (setS s b).DONE = s.DONE := rfl
@[simp] theorem setS_ESTICKY (s : State) (b : Block) : (setS s b).ESTICKY = s.ESTICKY := rfl
@[simp] theorem setS_ERRCODE (s : State) (b : Block) : (setS s b).ERRCODE = s.ERRCODE := rfl
@[simp] theorem setS_CMDR (s : State) (b : Block) : (setS s b).CMDR = s.CMDR := rfl
@[simp] theorem setS_script (s : State) (b : Block) : (setS s b).script = s.script := rfl
@[simp] theorem setS_log (s : State) (b : Block) : (setS s b).log = s.log := rfl
@[simp] theorem setS_lag (s : State) (b : Block) : (setS s b).lag = s.lag := rfl
@[simp] theorem setS_draws (s : State) (b : Block) : (setS s b).draws = s.draws := rfl

/-! clearTag -/

@[simp] theorem clearTag_params (s : State) : (clearTag s).params = s.params := rfl
@[simp] theorem clearTag_S (s : State) : (clearTag s).S = s.S := rfl
@[simp] theorem clearTag_KEY (s : State) : (clearTag s).KEY = s.KEY := rfl
@[simp] theorem clearTag_KEYLEN (s : State) : (clearTag s).KEYLEN = s.KEYLEN := rfl
@[simp] theorem clearTag_ROUNDS (s : State) : (clearTag s).ROUNDS = s.ROUNDS := rfl
@[simp] theorem clearTag_WIDX (s : State) : (clearTag s).WIDX = s.WIDX := rfl
@[simp] theorem clearTag_W (s : State) : (clearTag s).W = s.W := rfl
@[simp] theorem clearTag_KS_VALID (s : State) : (clearTag s).KS_VALID = false := rfl
@[simp] theorem clearTag_KS_NK (s : State) : (clearTag s).KS_NK = 0 := rfl
@[simp] theorem clearTag_KS_R (s : State) : (clearTag s).KS_R = 0 := rfl
@[simp] theorem clearTag_BUSY (s : State) : (clearTag s).BUSY = s.BUSY := rfl
@[simp] theorem clearTag_DONE (s : State) : (clearTag s).DONE = s.DONE := rfl
@[simp] theorem clearTag_ESTICKY (s : State) : (clearTag s).ESTICKY = s.ESTICKY := rfl
@[simp] theorem clearTag_ERRCODE (s : State) : (clearTag s).ERRCODE = s.ERRCODE := rfl
@[simp] theorem clearTag_CMDR (s : State) : (clearTag s).CMDR = s.CMDR := rfl
@[simp] theorem clearTag_script (s : State) : (clearTag s).script = s.script := rfl
@[simp] theorem clearTag_log (s : State) : (clearTag s).log = s.log := rfl
@[simp] theorem clearTag_lag (s : State) : (clearTag s).lag = s.lag := rfl
@[simp] theorem clearTag_draws (s : State) : (clearTag s).draws = s.draws := rfl

/-! writeSchedule -/

@[simp] theorem writeSchedule_params (s : State) (nk R : Nat) : (writeSchedule s nk R).params = s.params := rfl
@[simp] theorem writeSchedule_S (s : State) (nk R : Nat) : (writeSchedule s nk R).S = s.S := rfl
@[simp] theorem writeSchedule_KEY (s : State) (nk R : Nat) : (writeSchedule s nk R).KEY = s.KEY := rfl
@[simp] theorem writeSchedule_KEYLEN (s : State) (nk R : Nat) : (writeSchedule s nk R).KEYLEN = s.KEYLEN := rfl
@[simp] theorem writeSchedule_ROUNDS (s : State) (nk R : Nat) : (writeSchedule s nk R).ROUNDS = s.ROUNDS := rfl
@[simp] theorem writeSchedule_WIDX (s : State) (nk R : Nat) : (writeSchedule s nk R).WIDX = s.WIDX := rfl
@[simp] theorem writeSchedule_W (s : State) (nk R : Nat) : (writeSchedule s nk R).W = overwriteLow s.W (expand romTables (usedKey s) R) := rfl
@[simp] theorem writeSchedule_KS_VALID (s : State) (nk R : Nat) : (writeSchedule s nk R).KS_VALID = true := rfl
@[simp] theorem writeSchedule_KS_NK (s : State) (nk R : Nat) : (writeSchedule s nk R).KS_NK = BitVec.ofNat 8 nk := rfl
@[simp] theorem writeSchedule_KS_R (s : State) (nk R : Nat) : (writeSchedule s nk R).KS_R = BitVec.ofNat 8 R := rfl
@[simp] theorem writeSchedule_BUSY (s : State) (nk R : Nat) : (writeSchedule s nk R).BUSY = s.BUSY := rfl
@[simp] theorem writeSchedule_DONE (s : State) (nk R : Nat) : (writeSchedule s nk R).DONE = s.DONE := rfl
@[simp] theorem writeSchedule_ESTICKY (s : State) (nk R : Nat) : (writeSchedule s nk R).ESTICKY = s.ESTICKY := rfl
@[simp] theorem writeSchedule_ERRCODE (s : State) (nk R : Nat) : (writeSchedule s nk R).ERRCODE = s.ERRCODE := rfl
@[simp] theorem writeSchedule_CMDR (s : State) (nk R : Nat) : (writeSchedule s nk R).CMDR = s.CMDR := rfl
@[simp] theorem writeSchedule_script (s : State) (nk R : Nat) : (writeSchedule s nk R).script = s.script := rfl
@[simp] theorem writeSchedule_log (s : State) (nk R : Nat) : (writeSchedule s nk R).log = s.log := rfl
@[simp] theorem writeSchedule_lag (s : State) (nk R : Nat) : (writeSchedule s nk R).lag = s.lag := rfl
@[simp] theorem writeSchedule_draws (s : State) (nk R : Nat) : (writeSchedule s nk R).draws = s.draws := rfl

/-! acceptCommand -/

@[simp] theorem acceptCommand_params (v : Reg32) (s : State) : (acceptCommand v s).params = s.params := rfl
@[simp] theorem acceptCommand_S (v : Reg32) (s : State) : (acceptCommand v s).S = s.S := rfl
@[simp] theorem acceptCommand_KEY (v : Reg32) (s : State) : (acceptCommand v s).KEY = s.KEY := rfl
@[simp] theorem acceptCommand_KEYLEN (v : Reg32) (s : State) : (acceptCommand v s).KEYLEN = s.KEYLEN := rfl
@[simp] theorem acceptCommand_ROUNDS (v : Reg32) (s : State) : (acceptCommand v s).ROUNDS = s.ROUNDS := rfl
@[simp] theorem acceptCommand_WIDX (v : Reg32) (s : State) : (acceptCommand v s).WIDX = s.WIDX := rfl
@[simp] theorem acceptCommand_W (v : Reg32) (s : State) : (acceptCommand v s).W = s.W := rfl
@[simp] theorem acceptCommand_KS_VALID (v : Reg32) (s : State) : (acceptCommand v s).KS_VALID = s.KS_VALID := rfl
@[simp] theorem acceptCommand_KS_NK (v : Reg32) (s : State) : (acceptCommand v s).KS_NK = s.KS_NK := rfl
@[simp] theorem acceptCommand_KS_R (v : Reg32) (s : State) : (acceptCommand v s).KS_R = s.KS_R := rfl
@[simp] theorem acceptCommand_BUSY (v : Reg32) (s : State) : (acceptCommand v s).BUSY = true := rfl
@[simp] theorem acceptCommand_DONE (v : Reg32) (s : State) : (acceptCommand v s).DONE = false := rfl
@[simp] theorem acceptCommand_ESTICKY (v : Reg32) (s : State) : (acceptCommand v s).ESTICKY = s.ESTICKY := rfl
@[simp] theorem acceptCommand_ERRCODE (v : Reg32) (s : State) : (acceptCommand v s).ERRCODE = .eNone := rfl
@[simp] theorem acceptCommand_CMDR (v : Reg32) (s : State) : (acceptCommand v s).CMDR = v := rfl
@[simp] theorem acceptCommand_script (v : Reg32) (s : State) : (acceptCommand v s).script = s.script := rfl
@[simp] theorem acceptCommand_log (v : Reg32) (s : State) : (acceptCommand v s).log = s.log := rfl
@[simp] theorem acceptCommand_lag (v : Reg32) (s : State) : (acceptCommand v s).lag = Config.coreLag s.draws := rfl
@[simp] theorem acceptCommand_draws (v : Reg32) (s : State) : (acceptCommand v s).draws = s.draws + 1 := rfl

/-! latchCommand -/

@[simp] theorem latchCommand_params (v : Reg32) (s : State) : (latchCommand v s).params = s.params := rfl
@[simp] theorem latchCommand_S (v : Reg32) (s : State) : (latchCommand v s).S = s.S := rfl
@[simp] theorem latchCommand_KEY (v : Reg32) (s : State) : (latchCommand v s).KEY = s.KEY := rfl
@[simp] theorem latchCommand_KEYLEN (v : Reg32) (s : State) : (latchCommand v s).KEYLEN = s.KEYLEN := rfl
@[simp] theorem latchCommand_ROUNDS (v : Reg32) (s : State) : (latchCommand v s).ROUNDS = s.ROUNDS := rfl
@[simp] theorem latchCommand_WIDX (v : Reg32) (s : State) : (latchCommand v s).WIDX = s.WIDX := rfl
@[simp] theorem latchCommand_W (v : Reg32) (s : State) : (latchCommand v s).W = s.W := rfl
@[simp] theorem latchCommand_KS_VALID (v : Reg32) (s : State) : (latchCommand v s).KS_VALID = s.KS_VALID := rfl
@[simp] theorem latchCommand_KS_NK (v : Reg32) (s : State) : (latchCommand v s).KS_NK = s.KS_NK := rfl
@[simp] theorem latchCommand_KS_R (v : Reg32) (s : State) : (latchCommand v s).KS_R = s.KS_R := rfl
@[simp] theorem latchCommand_BUSY (v : Reg32) (s : State) : (latchCommand v s).BUSY = true := rfl
@[simp] theorem latchCommand_DONE (v : Reg32) (s : State) : (latchCommand v s).DONE = false := rfl
@[simp] theorem latchCommand_ESTICKY (v : Reg32) (s : State) : (latchCommand v s).ESTICKY = s.ESTICKY := rfl
@[simp] theorem latchCommand_ERRCODE (v : Reg32) (s : State) : (latchCommand v s).ERRCODE = .eNone := rfl
@[simp] theorem latchCommand_CMDR (v : Reg32) (s : State) : (latchCommand v s).CMDR = v := rfl
@[simp] theorem latchCommand_script (v : Reg32) (s : State) : (latchCommand v s).script = s.script := rfl
@[simp] theorem latchCommand_log (v : Reg32) (s : State) : (latchCommand v s).log = s.log := rfl
@[simp] theorem latchCommand_lag (v : Reg32) (s : State) : (latchCommand v s).lag = 0 := rfl
@[simp] theorem latchCommand_draws (v : Reg32) (s : State) : (latchCommand v s).draws = s.draws := rfl

/-! logRead -/

@[simp] theorem logRead_params (s : State) (a : Nat) (v : Reg32) : (logRead s a v).params = s.params := rfl
@[simp] theorem logRead_S (s : State) (a : Nat) (v : Reg32) : (logRead s a v).S = s.S := rfl
@[simp] theorem logRead_KEY (s : State) (a : Nat) (v : Reg32) : (logRead s a v).KEY = s.KEY := rfl
@[simp] theorem logRead_KEYLEN (s : State) (a : Nat) (v : Reg32) : (logRead s a v).KEYLEN = s.KEYLEN := rfl
@[simp] theorem logRead_ROUNDS (s : State) (a : Nat) (v : Reg32) : (logRead s a v).ROUNDS = s.ROUNDS := rfl
@[simp] theorem logRead_WIDX (s : State) (a : Nat) (v : Reg32) : (logRead s a v).WIDX = s.WIDX := rfl
@[simp] theorem logRead_W (s : State) (a : Nat) (v : Reg32) : (logRead s a v).W = s.W := rfl
@[simp] theorem logRead_KS_VALID (s : State) (a : Nat) (v : Reg32) : (logRead s a v).KS_VALID = s.KS_VALID := rfl
@[simp] theorem logRead_KS_NK (s : State) (a : Nat) (v : Reg32) : (logRead s a v).KS_NK = s.KS_NK := rfl
@[simp] theorem logRead_KS_R (s : State) (a : Nat) (v : Reg32) : (logRead s a v).KS_R = s.KS_R := rfl
@[simp] theorem logRead_BUSY (s : State) (a : Nat) (v : Reg32) : (logRead s a v).BUSY = s.BUSY := rfl
@[simp] theorem logRead_DONE (s : State) (a : Nat) (v : Reg32) : (logRead s a v).DONE = s.DONE := rfl
@[simp] theorem logRead_ESTICKY (s : State) (a : Nat) (v : Reg32) : (logRead s a v).ESTICKY = s.ESTICKY := rfl
@[simp] theorem logRead_ERRCODE (s : State) (a : Nat) (v : Reg32) : (logRead s a v).ERRCODE = s.ERRCODE := rfl
@[simp] theorem logRead_CMDR (s : State) (a : Nat) (v : Reg32) : (logRead s a v).CMDR = s.CMDR := rfl
@[simp] theorem logRead_script (s : State) (a : Nat) (v : Reg32) : (logRead s a v).script = s.script := rfl
@[simp] theorem logRead_log (s : State) (a : Nat) (v : Reg32) : (logRead s a v).log = s.log ++ [(a, v)] := rfl
@[simp] theorem logRead_lag (s : State) (a : Nat) (v : Reg32) : (logRead s a v).lag = s.lag := rfl
@[simp] theorem logRead_draws (s : State) (a : Nat) (v : Reg32) : (logRead s a v).draws = s.draws := rfl

/-! takeAction -/

@[simp] theorem takeAction_params (s : State) (rest : List HostAction) : (takeAction s rest).params = s.params := rfl
@[simp] theorem takeAction_S (s : State) (rest : List HostAction) : (takeAction s rest).S = s.S := rfl
@[simp] theorem takeAction_KEY (s : State) (rest : List HostAction) : (takeAction s rest).KEY = s.KEY := rfl
@[simp] theorem takeAction_KEYLEN (s : State) (rest : List HostAction) : (takeAction s rest).KEYLEN = s.KEYLEN := rfl
@[simp] theorem takeAction_ROUNDS (s : State) (rest : List HostAction) : (takeAction s rest).ROUNDS = s.ROUNDS := rfl
@[simp] theorem takeAction_WIDX (s : State) (rest : List HostAction) : (takeAction s rest).WIDX = s.WIDX := rfl
@[simp] theorem takeAction_W (s : State) (rest : List HostAction) : (takeAction s rest).W = s.W := rfl
@[simp] theorem takeAction_KS_VALID (s : State) (rest : List HostAction) : (takeAction s rest).KS_VALID = s.KS_VALID := rfl
@[simp] theorem takeAction_KS_NK (s : State) (rest : List HostAction) : (takeAction s rest).KS_NK = s.KS_NK := rfl
@[simp] theorem takeAction_KS_R (s : State) (rest : List HostAction) : (takeAction s rest).KS_R = s.KS_R := rfl
@[simp] theorem takeAction_BUSY (s : State) (rest : List HostAction) : (takeAction s rest).BUSY = s.BUSY := rfl
@[simp] theorem takeAction_DONE (s : State) (rest : List HostAction) : (takeAction s rest).DONE = s.DONE := rfl
@[simp] theorem takeAction_ESTICKY (s : State) (rest : List HostAction) : (takeAction s rest).ESTICKY = s.ESTICKY := rfl
@[simp] theorem takeAction_ERRCODE (s : State) (rest : List HostAction) : (takeAction s rest).ERRCODE = s.ERRCODE := rfl
@[simp] theorem takeAction_CMDR (s : State) (rest : List HostAction) : (takeAction s rest).CMDR = s.CMDR := rfl
@[simp] theorem takeAction_script (s : State) (rest : List HostAction) : (takeAction s rest).script = rest := rfl
@[simp] theorem takeAction_log (s : State) (rest : List HostAction) : (takeAction s rest).log = s.log := rfl
@[simp] theorem takeAction_lag (s : State) (rest : List HostAction) : (takeAction s rest).lag = s.lag - 1 := rfl
@[simp] theorem takeAction_draws (s : State) (rest : List HostAction) : (takeAction s rest).draws = s.draws := rfl

/-! resetEngine -/

@[simp] theorem resetEngine_params (s : State) : (resetEngine s).params = s.params := rfl
@[simp] theorem resetEngine_S (s : State) : (resetEngine s).S = .zero := rfl
@[simp] theorem resetEngine_KEY (s : State) : (resetEngine s).KEY = List.replicate (4 * s.params.nkMax) 0 := rfl
@[simp] theorem resetEngine_KEYLEN (s : State) : (resetEngine s).KEYLEN = 0 := rfl
@[simp] theorem resetEngine_ROUNDS (s : State) : (resetEngine s).ROUNDS = 0 := rfl
@[simp] theorem resetEngine_WIDX (s : State) : (resetEngine s).WIDX = 0 := rfl
@[simp] theorem resetEngine_W (s : State) : (resetEngine s).W = List.replicate s.params.wDepth .zero := rfl
@[simp] theorem resetEngine_KS_VALID (s : State) : (resetEngine s).KS_VALID = false := rfl
@[simp] theorem resetEngine_KS_NK (s : State) : (resetEngine s).KS_NK = 0 := rfl
@[simp] theorem resetEngine_KS_R (s : State) : (resetEngine s).KS_R = 0 := rfl
@[simp] theorem resetEngine_BUSY (s : State) : (resetEngine s).BUSY = false := rfl
@[simp] theorem resetEngine_DONE (s : State) : (resetEngine s).DONE = false := rfl
@[simp] theorem resetEngine_ESTICKY (s : State) : (resetEngine s).ESTICKY = false := rfl
@[simp] theorem resetEngine_ERRCODE (s : State) : (resetEngine s).ERRCODE = .eNone := rfl
@[simp] theorem resetEngine_CMDR (s : State) : (resetEngine s).CMDR = 0 := rfl
@[simp] theorem resetEngine_script (s : State) : (resetEngine s).script = s.script := rfl
@[simp] theorem resetEngine_log (s : State) : (resetEngine s).log = s.log := rfl
@[simp] theorem resetEngine_lag (s : State) : (resetEngine s).lag = s.lag := rfl
@[simp] theorem resetEngine_draws (s : State) : (resetEngine s).draws = s.draws := rfl

end Sys2Proof.Machine
end

