-- ==== Sys2Proof/Laws/Ops.lean ====
section
/-! SUPPORT. What the shared operations can do, said once: packing into the stores, validation, ensuring the
schedule, ending a command, and the depth of the two stores. -/

namespace Sys2Proof.Machine

/-! ### Lengths of the pure functions -/

theorem keyWords_length : ∀ key : List Byte, (keyWords key).length = key.length / 4
  | [] => rfl
  | [_] => by simp [keyWords]
  | [_, _] => by simp [keyWords]
  | [_, _, _] => by simp [keyWords]
  | _ :: _ :: _ :: _ :: rest => by
    simp only [keyWords, List.length_cons, keyWords_length rest]; omega

theorem extendSchedule_length (T : Tables) (nk : Nat) :
    ∀ n w, (extendSchedule T nk n w).length = w.length + n
  | 0, _ => rfl
  | n + 1, w => by rw [extendSchedule, extendSchedule_length T nk n]; simp; omega

theorem expand_length {T : Tables} {key : List Byte} {R : Nat} (h : key.length / 4 ≤ 4 * (R + 1)) :
    (expand T key R).length = 4 * (R + 1) := by
  rw [expand, extendSchedule_length, keyWords_length]; omega

/-! ### The two stores -/

@[simp] theorem setKeyBytes_length (key : List Byte) (j : Nat) (w : Word4) :
    (setKeyBytes key j w).length = key.length := by simp [setKeyBytes]

theorem overwriteLow_length {ram w : List Word4} (h : w.length ≤ ram.length) :
    (overwriteLow ram w).length = ram.length := by simp [overwriteLow]; omega

theorem memory_wf_resetOf (p : Params) : Memory.wf (State.resetOf p) :=
  ⟨List.length_replicate, List.length_replicate⟩

theorem memory_wf_reset : Memory.wf State.reset := memory_wf_resetOf _

theorem memory_wf_resetEngine (s : State) : Memory.wf (resetEngine s) := memory_wf_resetOf s.params

theorem memory_wf_setKey {s : State} (h : Memory.wf s) (j : Nat) (w : Word4) :
    Memory.wf { s with KEY := setKeyBytes s.KEY j w } :=
  ⟨by rw [setKeyBytes_length]; exact h.1, h.2⟩

/-- The key a command uses has no more words than the schedule. -/
theorem usedKey_words {s : State} (h : ScheduleLegal s) :
    (usedKey s).length / 4 ≤ 4 * (s.ROUNDS.toNat + 1) := by
  have hk : (usedKey s).length ≤ s.KEYLEN.toNat := by simp [usedKey]
  have hn := h.2.2.2.2
  omega

theorem currentSchedule_length {s : State} (h : ScheduleLegal s) :
    (currentSchedule s).length = 4 * (s.ROUNDS.toNat + 1) := expand_length (usedKey_words h)

theorem memory_wf_writeSchedule {s : State} (h : Memory.wf s) (hl : ScheduleLegal s) (nk : Nat) :
    Memory.wf (writeSchedule s nk s.ROUNDS.toNat) := by
  refine ⟨h.1, ?_⟩
  have hc := currentSchedule_length hl
  have hr := hl.2.2.2.1
  have hw := h.2
  rw [Params.wDepth] at hw
  show (overwriteLow s.W (currentSchedule s)).length = 4 * (s.params.rMax + 1)
  rw [overwriteLow_length (by omega), hw]

/-! ### Validation and the schedule -/

/-- Validation succeeds exactly on legal registers, with the sizes they give. -/
theorem validate_ok_iff (s : State) (p : Nat × Nat) :
    validate s = .ok p ↔ ScheduleLegal s ∧ p = (s.KEYLEN.toNat / 4, s.ROUNDS.toNat) := by
  simp only [validate, ScheduleLegal, KeylenFormed]
  split_ifs <;> simp only [false_iff, Except.ok.injEq, not_and]
  all_goals first | (intro h; omega) | skip
  constructor
  · rintro rfl; exact ⟨by omega, rfl⟩
  · rintro ⟨_, rfl⟩; rfl

theorem validate_of_legal {s : State} (h : ScheduleLegal s) :
    validate s = .ok (s.KEYLEN.toNat / 4, s.ROUNDS.toNat) := (validate_ok_iff _ _).2 ⟨h, rfl⟩

/-- Validation raises one of three errors only, each with its cause. -/
theorem validate_error_cause {s : State} {e : ErrCode} (h : validate s = .error e) :
    (e = .eKeylen ∧ ¬ KeylenFormed s) ∨
    (e = .eRounds ∧ (s.ROUNDS.toNat = 0 ∨ 4 * (s.ROUNDS.toNat + 1) < s.KEYLEN.toNat / 4)) ∨
    (e = .eRange ∧ (s.KEYLEN.toNat / 4 > s.params.nkMax ∨ s.ROUNDS.toNat > s.params.rMax)) := by
  unfold validate at h
  split_ifs at h with h1 h2 h3 h4 h5 <;> cases h
  · exact .inl ⟨rfl, by rw [KeylenFormed]; omega⟩
  · exact .inr (.inr ⟨rfl, .inl h2⟩)
  · exact .inr (.inl ⟨rfl, .inl h3⟩)
  · exact .inr (.inr ⟨rfl, .inr h4⟩)
  · exact .inr (.inl ⟨rfl, .inr h5⟩)

/-- Ensuring the schedule fails exactly where validation does. -/
theorem ensureSchedule_error_iff (s : State) (e : ErrCode) :
    ensureSchedule s = .error e ↔ validate s = .error e := by
  unfold ensureSchedule
  cases validate s with
  | error e' => simp
  | ok p => dsimp only; split <;> simp

/-- Ensuring the schedule succeeds on legal registers only, and then keeps the state where the tag is set, or
writes the schedule. -/
theorem ensureSchedule_ok {s t : State} (h : ensureSchedule s = .ok t) :
    ScheduleLegal s ∧ (t = s ∧ s.KS_VALID = true ∨
      t = writeSchedule s (s.KEYLEN.toNat / 4) s.ROUNDS.toNat ∧ s.KS_VALID = false) := by
  unfold ensureSchedule at h
  split at h
  · cases h
  · rename_i nk R hv
    obtain ⟨hl, hp⟩ := (validate_ok_iff _ _).1 hv
    obtain ⟨rfl, rfl⟩ := Prod.mk.inj hp
    refine ⟨hl, ?_⟩
    split at h <;> cases h
    · exact .inl ⟨rfl, ‹_›⟩
    · exact .inr ⟨rfl, by simpa using ‹¬ s.KS_VALID = true›⟩

theorem ensureSchedule_of_legal {s : State} (h : ScheduleLegal s) : ∃ t, ensureSchedule s = .ok t := by
  unfold ensureSchedule
  rw [validate_of_legal h]
  dsimp only
  split <;> exact ⟨_, rfl⟩

/-! ### How a command ends -/

theorem finish_ok (s t : State) : finish s (.ok t) = .next (completeOk t) := rfl

theorem finish_error (s : State) (e : ErrCode) : finish s (.error e) = .next (raiseErr e s) := rfl

theorem completeOk_setS (s : State) (b : Block) : completeOk (setS s b) = afterUnit s b := rfl

theorem raiseErr_eq (s : State) (e : ErrCode) : raiseErr e s = afterError s e := rfl

theorem completeOk_writeSchedule {s : State} (h : ScheduleLegal s) (b : Block) :
    completeOk (setS (writeSchedule s (s.KEYLEN.toNat / 4) s.ROUNDS.toNat) b) =
      afterSchedule s b (s.W.drop (4 * (s.ROUNDS.toNat + 1))) := by
  have hw : overwriteLow s.W (expand romTables (usedKey s) s.ROUNDS.toNat) =
      currentSchedule s ++ s.W.drop (4 * (s.ROUNDS.toNat + 1)) := by
    rw [overwriteLow, expand_length (usedKey_words h)]; rfl
  simp only [completeOk, setS, writeSchedule, hw, afterSchedule]

end Sys2Proof.Machine
end

