-- ==== Sys2Proof/Laws/Exec.lean ====
section
/-! SUPPORT. What a command and a step can do, said once as a case analysis, and the depth of the two stores
through a step. -/

namespace Sys2Proof.Machine

/-- The four ways a command can end, from the state before to the state after. -/
inductive CommandEffect (i : Instr) (s : State) : State → Prop
  /-- An error, of a command that needs the schedule. -/
  | error (e : ErrCode) (needs : NeedsSchedule i)
      (cause : validate s = .error e ∨ ScheduleLegal s ∧ e = .eIndex ∧ ∃ n, i = .addkey n) :
      CommandEffect i s (raiseErr e s)
  /-- A new `S` and nothing else. -/
  | unit (b : Block) (h : i ≠ .reset) : CommandEffect i s (completeOk (setS s b))
  /-- A new `S`, and the schedule written. -/
  | schedule (b : Block) (needs : NeedsSchedule i) (legal : ScheduleLegal s) :
      CommandEffect i s (completeOk (setS (writeSchedule s (s.KEYLEN.toNat / 4) s.ROUNDS.toNat) b))
  /-- The reset. -/
  | reset (h : i = .reset) : CommandEffect i s (resetEngine s)

/-- The effect of a command that ensures the schedule and then maps `S`. -/
theorem withSchedule_effect {i : Instr} (needs : NeedsSchedule i) (hr : i ≠ .reset) (s : State)
    (body : State → Except ErrCode State)
    (hb : ∀ t, (∃ b, body t = .ok (setS t b)) ∨ body t = .error .eIndex ∧ ∃ n, i = .addkey n) :
    ∃ t, finish s (withSchedule s body) = .next t ∧ CommandEffect i s t := by
  unfold withSchedule
  cases he : ensureSchedule s with
  | error e => exact ⟨_, rfl, .error e needs (.inl ((ensureSchedule_error_iff _ _).1 he))⟩
  | ok t =>
    obtain ⟨hl, ht⟩ := ensureSchedule_ok he
    obtain ⟨b, hbt⟩ | ⟨hbt, hn⟩ := hb t
    · simp only [hbt, finish_ok]
      obtain ⟨rfl, -⟩ | ⟨rfl, -⟩ := ht
      · exact ⟨_, rfl, .unit b hr⟩
      · exact ⟨_, rfl, .schedule b needs hl⟩
    · simp only [hbt, finish_error]
      exact ⟨_, rfl, .error .eIndex needs (.inr ⟨hl, rfl, hn⟩)⟩

/-- Every command answers a next state, by one of the four effects. -/
theorem exec_effect (i : Instr) (s : State) : ∃ t, exec i s = .next t ∧ CommandEffect i s t := by
  cases i with
  | reset => exact ⟨_, rfl, .reset rfl⟩
  | expand =>
    show ∃ t, finish s (computeSchedule s) = _ ∧ _
    unfold computeSchedule
    split
    · rename_i e h
      exact ⟨_, rfl, .error e trivial (.inl h)⟩
    · rename_i nk R h
      obtain ⟨hl, hp⟩ := (validate_ok_iff _ _).1 h
      obtain ⟨rfl, rfl⟩ := Prod.mk.inj hp
      exact ⟨_, rfl, .schedule s.S trivial hl⟩
  | encrypt => exact withSchedule_effect trivial (by simp) s _ fun t => .inl ⟨_, rfl⟩
  | decrypt => exact withSchedule_effect trivial (by simp) s _ fun t => .inl ⟨_, rfl⟩
  | addkey n =>
    refine withSchedule_effect trivial (by simp) s _ fun t => ?_
    by_cases hn : n > t.ROUNDS.toNat
    · exact .inr ⟨if_pos hn, n, rfl⟩
    · exact .inl ⟨_, if_neg hn⟩
  | nop => exact ⟨_, rfl, .unit s.S (by simp)⟩
  | sub => exact ⟨_, rfl, .unit _ (by simp)⟩
  | isub => exact ⟨_, rfl, .unit _ (by simp)⟩
  | shl => exact ⟨_, rfl, .unit _ (by simp)⟩
  | shr => exact ⟨_, rfl, .unit _ (by simp)⟩
  | mix => exact ⟨_, rfl, .unit _ (by simp)⟩
  | imix => exact ⟨_, rfl, .unit _ (by simp)⟩
  | xpose => exact ⟨_, rfl, .unit _ (by simp)⟩
  | dbl => exact ⟨_, rfl, .unit _ (by simp)⟩

theorem memory_wf_effect {i : Instr} {s t : State} (hw : Memory.wf s) (h : CommandEffect i s t) :
    Memory.wf t := by
  cases h with
  | error e => exact hw
  | unit b => exact hw
  | schedule b _ hl => exact memory_wf_writeSchedule hw hl (s.KEYLEN.toNat / 4)
  | reset => exact memory_wf_resetEngine s

/-- A command keeps the depth of both stores. -/
theorem exec_memory_wf {i : Instr} {s t : State} (hw : Memory.wf s) (h : exec i s = .next t) :
    Memory.wf t := by
  obtain ⟨u, hu, he⟩ := exec_effect i s
  rw [h] at hu
  cases hu
  exact memory_wf_effect hw he

/-- A host read keeps both stores and the parameters. -/
theorem readReg_stores (s : State) (offset : Nat) (r : Reg) :
    (readReg s offset r).params = s.params ∧ (readReg s offset r).KEY = s.KEY ∧
      (readReg s offset r).W = s.W := by
  unfold readReg; split <;> exact ⟨rfl, rfl, rfl⟩

/-- A host write keeps the depth of both stores. -/
theorem writeReg_memory_wf {s : State} (hw : Memory.wf s) (r : Reg) (v : Reg32) :
    Memory.wf (writeReg s r v) := by
  unfold writeReg
  split
  · exact hw
  · cases r with
    | keyw j => exact memory_wf_setKey hw j _
    | cmd => exact hw
    | status => exact hw
    | keylen => exact hw
    | rounds => exact hw
    | widx => exact hw
    | wdata => exact hw
    | params => exact hw
    | sw i => exact hw
    | reserved => exact hw

theorem memory_wf_of_stores {s t : State} (hw : Memory.wf s)
    (h : t.params = s.params ∧ t.KEY = s.KEY ∧ t.W = s.W) : Memory.wf t := by
  rw [Memory.wf, h.1, h.2.1, h.2.2]; exact hw

/-- A host action keeps the depth of both stores. -/
theorem hostAct_memory_wf {a : HostAction} {s t : State} (hw : Memory.wf s) (h : hostAct a s = .next t) :
    Memory.wf t := by
  cases a with
  | read size offset =>
    simp only [hostAct] at h
    split at h <;> cases h
    exact memory_wf_of_stores hw (readReg_stores _ _ _)
  | write size offset v =>
    simp only [hostAct] at h
    split at h <;> cases h
    exact writeReg_memory_wf hw _ v
  | wait =>
    cases h
    unfold pollStatus
    dsimp only
    split <;> exact memory_wf_of_stores hw (readReg_stores s _ _)
  | rst => cases h; exact memory_wf_resetEngine s

/-- A step keeps the depth of both stores. -/
theorem step_memory_wf {s t : State} (hw : Memory.wf s) (h : step s = .next t) : Memory.wf t := by
  unfold step at h
  split at h
  · unfold coreStep at h
    split at h
    · exact exec_memory_wf hw h
    · cases h; exact hw
  · unfold hostTurn at h
    split at h
    · cases h; exact hw
    · exact hostAct_memory_wf (s := takeAction s _) hw h

end Sys2Proof.Machine

/-- One step more of a run. -/
theorem Sys2Proof.Machine.run_succ (M : Host.Core) (k : Nat) (s : M.State) :
    Host.Core.run M (k + 1) s =
      (match M.step s with
      | .next t => Host.Core.run M k t
      | .fault r => .fault r
      | .refused r => .refused r) := rfl
end

