-- ==== Sys2Proof/Laws/PerInstr.lean ====
section
/-! SUPPORT. Statements about every command as syntax, one lemma a constructor. -/

namespace Sys2Proof.Laws.EncodeFormat

/-- The three fields of an encoded command (30_encoding.md R70): the reserved bits zero, the opcode, and the low
byte. -/
def Statement (i : Instr) : Prop :=
  rsvField (encode i) = 0 ∧ opcodeField (encode i) = opcodeOf i ∧ lowField (encode i) = lowOf i

theorem nop : Statement .nop := by unfold Statement; decide
theorem expand : Statement .expand := by unfold Statement; decide
theorem encrypt : Statement .encrypt := by unfold Statement; decide
theorem decrypt : Statement .decrypt := by unfold Statement; decide
theorem sub : Statement .sub := by unfold Statement; decide
theorem isub : Statement .isub := by unfold Statement; decide
theorem shl : Statement .shl := by unfold Statement; decide
theorem shr : Statement .shr := by unfold Statement; decide
theorem mix : Statement .mix := by unfold Statement; decide
theorem imix : Statement .imix := by unfold Statement; decide
theorem xpose : Statement .xpose := by unfold Statement; decide
theorem addkey (n : Nat) : Statement (.addkey n) := by
  have h : ∀ b : BitVec 8, rsvField ((0 : BitVec 16) ++ (0x17 : BitVec 8) ++ b) = 0 ∧
      opcodeField ((0 : BitVec 16) ++ (0x17 : BitVec 8) ++ b) = 0x17 ∧
      lowField ((0 : BitVec 16) ++ (0x17 : BitVec 8) ++ b) = b := by decide +kernel
  exact h _
theorem dbl : Statement .dbl := by unfold Statement; decide
theorem reset : Statement .reset := by unfold Statement; decide

end Sys2Proof.Laws.EncodeFormat
end

