-- ==== Sys2Proof/Tests/Slice0.lean ====
section
/-! SUPPORT. The model's own tests: the well-formedness check, every command's encoding written out bit by bit,
one-step tests whose expected values are printed in 95_test_vectors.md and 96_test_pipelines_schedules.md, and a
witness for the hypotheses of every obligation that has any. -/

namespace Sys2Proof.Tests

/- One theorem after another: each `decide +kernel` below would otherwise take a thread of its own. -/
set_option Elab.async false

open Sys2Proof Sys2Proof.Machine

/-! ### Helpers -/

/-- A block from its 32 hexadecimal digits read as one number, first byte first. -/
def blk (n : Nat) : Block := .ofFn fun k => BitVec.ofNat 8 (n >>> (8 * (15 - k.val)))

/-- The bytes `0, 1, .. n-1`: the keys the spec names `00..nn`. -/
def upTo (n : Nat) : List Byte := (List.range n).map (BitVec.ofNat 8)

/-- Reset, then a key, a round count and a block loaded. -/
def loaded (key : List Byte) (rounds : Nat) (b : Block) : State :=
  { State.reset with
    KEY := key ++ List.replicate (64 - key.length) 0
    KEYLEN := BitVec.ofNat 32 key.length
    ROUNDS := BitVec.ofNat 32 rounds
    S := b }

/-- Reset, then a key length and a round count written, the key all zero. -/
def sized (keylen rounds : Nat) : State :=
  { State.reset with KEYLEN := BitVec.ofNat 32 keylen, ROUNDS := BitVec.ofNat 32 rounds }

/-- The known-answer key with ten rounds (95_test_vectors.md 1.1). -/
def kat : State := loaded (upTo 16) 10 (blk 0x00112233445566778899aabbccddeeff)

/-- `kat` with its schedule in `W` and in the tag. -/
def katReady : State := writeSchedule kat 4 10

/-- One step on a command word: the block and the status after it. -/
def runWord (s : State) (w : Nat) : Option (Block × Reg32) :=
  match step (s.withFetchWord 32 w) with
  | .next t => some (t.S, regValue t .status)
  | .fault _ => none
  | .refused _ => none

/-- One step on a command word: a schedule word and the status after it. -/
def runWordW (s : State) (w i : Nat) : Option (Word4 × Reg32) :=
  match step (s.withFetchWord 32 w) with
  | .next t => some (t.W.getD i .zero, regValue t .status)
  | .fault _ => none
  | .refused _ => none

/-- The status alone. -/
def statusAfter (s : State) (w : Nat) : Option Reg32 := (runWord s w).map (·.2)

/-- The block `000102030405060708090a0b0c0d0e0f` of 95_test_vectors.md section 2. -/
def ramp : State := { State.reset with S := blk 0x000102030405060708090a0b0c0d0e0f }

/-- The block `0123456789abcdeffedcba9876543210` of 95_test_vectors.md section 2. -/
def zigzag : State := { State.reset with S := blk 0x0123456789abcdeffedcba9876543210 }

/-! ### Well-formedness: the one check there is, and a term it refuses -/

theorem test_addkey_256_ill_formed : ¬ (Instr.addkey 256).wellFormed := by decide
theorem test_addkey_255_well_formed : (Instr.addkey 255).wellFormed := by decide

/-! ### Decoding: words written out from 30_encoding.md R70 (the fields) and R74 (the opcodes) -/

theorem test_decode_nop : decode 0b0000000000000000_00000000_00000000 = .ok .nop := by decide
theorem test_decode_expand : decode 0b0000000000000000_00000001_00000000 = .ok .expand := by decide
theorem test_decode_encrypt : decode 0b0000000000000000_00000010_00000000 = .ok .encrypt := by decide
theorem test_decode_decrypt : decode 0b0000000000000000_00000011_00000000 = .ok .decrypt := by decide
theorem test_decode_sub : decode 0b0000000000000000_00010000_00000000 = .ok .sub := by decide
theorem test_decode_isub : decode 0b0000000000000000_00010001_00000000 = .ok .isub := by decide
theorem test_decode_shl : decode 0b0000000000000000_00010010_00000000 = .ok .shl := by decide
theorem test_decode_shr : decode 0b0000000000000000_00010011_00000000 = .ok .shr := by decide
theorem test_decode_mix : decode 0b0000000000000000_00010100_00000000 = .ok .mix := by decide
theorem test_decode_imix : decode 0b0000000000000000_00010101_00000000 = .ok .imix := by decide
theorem test_decode_xpose : decode 0b0000000000000000_00010110_00000000 = .ok .xpose := by decide
theorem test_decode_addkey : decode 0b0000000000000000_00010111_10000001 = .ok (.addkey 129) := by decide
theorem test_decode_dbl : decode 0b0000000000000000_00011000_00000000 = .ok .dbl := by decide
theorem test_decode_reset : decode 0b0000000000000000_11111111_00000000 = .ok .reset := by decide

/-- The illegal words of 95_test_vectors.md 2.7. -/
theorem test_decode_illegal :
    ([0x00000001, 0x00000101, 0x00000400, 0x00000F00, 0x00001900, 0x00001001, 0x00001601, 0x0000FE00,
      0x0000FF01, 0x00010000, 0x00010200, 0x80000000, 0xFFFFFFFF, 0x00011700] : List Reg32).all
      (fun c => (decode c).toOption == none) = true := by decide

/-! ### The unit commands (95_test_vectors.md 2.1 to 2.6) -/

theorem test_dbl : runWord { State.reset with S := blk 0x000157808eff7f1b8d02040810204080 } 0x1800 =
    some (blk 0x0002ae1b07e5fe36010408102040801b, 0x00000002) := by decide +kernel
theorem test_dbl_zigzag : runWord zigzag 0x1800 =
    some (blk 0x02468ace094d81c5e7a36f2beca86420, 0x00000002) := by decide +kernel
theorem test_sub : runWord ramp 0x1000 =
    some (blk 0x637c777bf26b6fc53001672bfed7ab76, 0x00000002) := by decide +kernel
theorem test_sub_zigzag : runWord zigzag 0x1000 =
    some (blk 0x7c266e85a762bddfbb86f446382023ca, 0x00000002) := by decide +kernel
theorem test_isub : runWord ramp 0x1100 =
    some (blk 0x52096ad53036a538bf40a39e81f3d7fb, 0x00000002) := by decide +kernel
theorem test_isub_zigzag : runWord zigzag 0x1100 =
    some (blk 0x0932680af20e80610c93c0e20ffda17c, 0x00000002) := by decide +kernel
theorem test_xpose : runWord ramp 0x1600 =
    some (blk 0x0004080c0105090d02060a0e03070b0f, 0x00000002) := by decide +kernel
theorem test_shl : runWord ramp 0x1200 =
    some (blk 0x0004080c05090d010a0e02060f03070b, 0x00000002) := by decide +kernel
theorem test_shl_zigzag : runWord zigzag 0x1200 =
    some (blk 0x0189fe76abdc5423ba3245cd1067ef98, 0x00000002) := by decide +kernel
theorem test_shr : runWord ramp 0x1300 =
    some (blk 0x0004080c0d0105090a0e0206070b0f03, 0x00000002) := by decide +kernel
theorem test_shr_zigzag : runWord zigzag 0x1300 =
    some (blk 0x0189fe765423abdcba3245cdef981067, 0x00000002) := by decide +kernel
theorem test_mix : runWord ramp 0x1400 =
    some (blk 0x081c0014091d01150a1e02160b1f0317, 0x00000002) := by decide +kernel
theorem test_mix_zigzag : runWord zigzag 0x1400 =
    some (blk 0x0a67f5982845d7ba4e23b1dc6c0193fe, 0x00000002) := by decide +kernel
theorem test_imix : runWord ramp 0x1500 =
    some (blk 0x0a0f080d0e0b0c090207000506030401, 0x00000002) := by decide +kernel
theorem test_imix_zigzag : runWord zigzag 0x1500 =
    some (blk 0x4ee40aa0c66c8228b11bf55f39937dd7, 0x00000002) := by decide +kernel
theorem test_addkey_last_slice : runWord kat 0x170A =
    some (blk 0x13003f4ca7c12c607b9e0d3081f6de3a, 0x000A0406) := by decide +kernel
theorem test_addkey_past_schedule : runWord kat 0x170B =
    some (blk 0x00112233445566778899aabbccddeeff, 0x0000005A) := by decide +kernel

/-! ### The cipher commands (95_test_vectors.md 2.9, 96_test_pipelines_schedules.md 3.2, 4.4) -/

theorem test_expand_last_word : runWordW kat 0x0100 43 =
    some (⟨0x4d, 0x2b, 0x30, 0xc5⟩, 0x000A0406) := by decide +kernel
theorem test_expand_nk7_extra_sub : runWordW (loaded (upTo 28) 3 .zero) 0x0100 11 =
    some (⟨0x13, 0x2b, 0x6b, 0x86⟩, 0x00030706) := by decide +kernel
theorem test_encrypt_known_answer : runWord kat 0x0200 =
    some (blk 0x69c4e0d86a7b0430d8cdb78070b4c55a, 0x000A0406) := by decide +kernel
theorem test_encrypt_nk7 : runWord (loaded (upTo 28) 3 kat.S) 0x0200 =
    some (blk 0x79491e1c45733fac88bed95f49823f7b, 0x00030706) := by decide +kernel
theorem test_decrypt_known_answer :
    runWord { kat with S := blk 0x69c4e0d86a7b0430d8cdb78070b4c55a } 0x0300 =
      some (blk 0x00112233445566778899aabbccddeeff, 0x000A0406) := by decide +kernel
theorem test_decrypt_one_round :
    runWord { loaded (upTo 16) 1 (blk 0xb5f99471dbcf93fe17d6cfa06c61a619) with ESTICKY := true } 0x0300 =
      some (blk 0x00112233445566778899aabbccddeeff, 0x0001040E) := by decide +kernel

/-! ### The system commands, errors and flags (95_test_vectors.md 2.7) -/

theorem test_nop : runWord ramp 0x0000 =
    some (blk 0x000102030405060708090a0b0c0d0e0f, 0x00000002) := by decide +kernel
theorem test_nop_keeps_sticky :
    statusAfter { State.reset with ESTICKY := true, DONE := true, ERRCODE := .eKeylen } 0x0000 =
      some 0x0000000A := by decide +kernel
theorem test_reset : runWord { katReady with ESTICKY := true } 0xFF00 =
    some (blk 0, 0x00000000) := by decide +kernel
theorem test_illegal_word : runWord ramp 0x0001 =
    some (blk 0x000102030405060708090a0b0c0d0e0f, 0x0000001A) := by decide +kernel

/-- The validation table of 95_test_vectors.md 2.7: (`KEYLEN`, `ROUNDS`, `STATUS` after `EXPAND`). -/
theorem test_validation_errors :
    ([(0, 0, 0x2A), (6, 0, 0x2A), (0xFFFFFFFF, 0, 0x2A), (68, 0, 0x4A), (0x10010, 10, 0x4A),
      (0xFFFFFFFC, 1, 0x4A), (16, 0, 0x3A), (16, 64, 0x4A), (16, 0x10A, 0x4A), (36, 1, 0x3A), (52, 2, 0x3A),
      (64, 2, 0x3A)] : List (Nat × Nat × Reg32)).all
      (fun (k, r, v) => statusAfter (sized k r) 0x0100 == some v) = true := by decide +kernel
theorem test_validation_successes :
    ([(32, 1, 0x00010806), (48, 2, 0x00020C06), (64, 3, 0x00031006), (4, 1, 0x00010106)] :
      List (Nat × Nat × Reg32)).all
      (fun (k, r, v) => statusAfter (sized k r) 0x0100 == some v) = true := by decide +kernel

/-! ### The host port (95_test_vectors.md 2.8, 20_memory.md R54) -/

/-- What a read of an offset returns, in one step of the host. -/
def readOf (s : State) (offset : Nat) : Option (Nat × Reg32) :=
  match step { s with script := [.read .word offset] } with
  | .next t => t.log.getLast?
  | .fault _ => none
  | .refused _ => none

/-- The state after a write of an offset, in one step of the host. -/
def writeOf (s : State) (offset : Nat) (v : Reg32) : Option State :=
  match step { s with script := [.write .word offset v] } with
  | .next t => some t
  | .fault _ => none
  | .refused _ => none

theorem test_read_params : readOf State.reset 0x018 = some (0x018, 0x00003F10) := by decide +kernel
theorem test_read_wdata : readOf { katReady with WIDX := 43 } 0x014 = some (0x014, 0x4D2B30C5) := by
  decide +kernel
theorem test_read_wdata_past_end : readOf { katReady with WIDX := 44 } 0x014 = some (0x014, 0) := by
  decide +kernel
theorem test_write_key_big_endian :
    (writeOf State.reset 0x100 0x2B7E1516).map (·.KEY.take 5) = some [0x2b, 0x7e, 0x15, 0x16, 0x00] := by
  decide +kernel
theorem test_write_rounds_clears_tag :
    (writeOf katReady 0x00C 10).map (fun t => (t.KS_VALID, t.KS_NK, t.KS_R)) = some (false, 0, 0) := by
  decide +kernel
theorem test_write_while_busy_dropped :
    (writeOf { katReady with BUSY := true, lag := 1 } 0x008 0x20).map (·.KEYLEN) = some 0x10 := by
  decide +kernel
/-- The refusal of a step, if it refuses. -/
def refusalOf (s : State) : Option Refusal :=
  match step s with
  | .next _ => none
  | .fault _ => none
  | .refused r => some r

theorem test_narrow_access_refused :
    refusalOf { State.reset with script := [.read .byte 0x004] } = some (.portCannotExpress .byte 0x004) := by
  decide +kernel

/-- The writes of program P1 (95_test_vectors.md section 5). -/
theorem test_p1_encoding :
    scriptEncoding
      (scriptLDKEY (keyWords (upTo 16)) ++ scriptWR .rounds 0xA ++ scriptLDBLK kat.S ++ scriptRUN .encrypt ++
        scriptRD .status ++ scriptRDBLK) =
      [(0x008, 0x00000010), (0x100, 0x00010203), (0x104, 0x04050607), (0x108, 0x08090A0B),
       (0x10C, 0x0C0D0E0F), (0x00C, 0x0000000A), (0x020, 0x00112233), (0x024, 0x44556677),
       (0x028, 0x8899AABB), (0x02C, 0xCCDDEEFF), (0x000, 0x00000200)] := by decide +kernel

/-! ### Witnesses: concrete inputs that meet the hypotheses of the obligations, clause by clause -/

/-- The states the witnesses use meet the invariant, with the tag clear and with the tag set. -/
theorem witness_states_meet_invariant : EngineInv kat ∧ EngineInv katReady ∧ ScheduleLegal kat ∧
    ScheduleLegal katReady ∧ katReady.KS_VALID = true ∧ kat.KS_VALID = false := by decide +kernel

theorem witness_DecodingInvertsEncoding :
    (Instr.addkey 0).wellFormed ∧ (Instr.addkey 255).wellFormed ∧ Instr.reset.wellFormed ∧
    decode 0x000017FF = .ok (.addkey 255) ∧ (0 : Nat) ≤ 255 ∧ (255 : Nat) ≤ 255 := by decide

theorem witness_IllegalWordsEndWithECmd :
    decode 0x00010000 = .error .reservedBits ∧ decode 0x00001901 = .error .lowByte ∧
    decode 0x00001900 = .error .opcode ∧ State.reset.BUSY = false ∧
    ({ State.reset with CMDR := 0x00010000 } : State).CMDR = 0x00010000 := by decide

theorem witness_StepRunsLatchedCommand :
    (∃ s : State, s.BUSY = true ∧ s.lag = 0 ∧ s.script ≠ [] ∧ decode s.CMDR = .ok .sub) ∧
    (∃ s : State, s.BUSY = true ∧ s.lag ≠ 0 ∧ s.script = [] ∧ decode s.CMDR = .ok (.addkey 255)) ∧
    (∃ s : State, s.BUSY = true ∧ s.lag = 0 ∧ s.script ≠ [] ∧ decode s.CMDR = .error .lowByte) ∧
    decodeTableWord 32 0x000017FF = some (.addkey 255) :=
  ⟨⟨{ ramp with BUSY := true, CMDR := 0x1000, script := [.wait] }, by decide⟩,
   ⟨{ ramp with BUSY := true, CMDR := 0x17FF, lag := 2 }, by decide⟩,
   ⟨{ ramp with BUSY := true, CMDR := 0x0001, script := [.wait] }, by decide⟩, by decide⟩

theorem witness_StepRunsNextHostAction :
    (∃ s : State, s.script = [.wait] ∧ s.BUSY = false) ∧
    (∃ s : State, s.script = [.rst] ∧ s.BUSY = true ∧ s.lag ≠ 0) ∧
    (∃ s : State, s.BUSY = false ∧ s.script = []) :=
  ⟨⟨{ ramp with script := [.wait] }, by decide⟩,
   ⟨{ ramp with script := [.rst], BUSY := true, lag := 1 }, by decide⟩, ⟨ramp, by decide⟩⟩

/-- Slices 0 and `ROUNDS` are the bounds of the first clause, `ROUNDS + 1` the bound of the last. -/
theorem witness_AddkeyAppliesItsSlice :
    EngineInv kat ∧ ScheduleLegal kat ∧ 0 ≤ kat.ROUNDS.toNat ∧ 10 ≤ kat.ROUNDS.toNat ∧
    kat.ROUNDS.toNat < 11 ∧ EngineInv katReady ∧ ScheduleLegal katReady ∧
    EngineInv State.reset ∧ validate State.reset = .error .eKeylen := by
  refine ⟨?_, ?_, ?_, ?_, ?_, ?_, ?_, ?_, ?_⟩ <;> decide +kernel

theorem witness_ExpandWritesTheSchedule :
    ScheduleLegal katReady ∧ ScheduleLegal (sized 4 1) ∧ ScheduleLegal (sized 64 63) ∧
    validate (sized 68 10) = .error .eRange := by decide +kernel

theorem witness_EncryptReplacesBlock :
    EngineInv kat ∧ ScheduleLegal kat ∧ EngineInv katReady ∧ ScheduleLegal katReady ∧
    EngineInv (sized 16 0) ∧ validate (sized 16 0) = .error .eRounds := by
  refine ⟨?_, ?_, ?_, ?_, ?_, ?_⟩ <;> decide +kernel

theorem witness_DecryptReplacesBlock :
    EngineInv katReady ∧ ScheduleLegal katReady ∧ EngineInv (sized 16 64) ∧
    validate (sized 16 64) = .error .eRange := by decide +kernel

/-- A state for each clause of the checks of R160, at the values where the clauses meet. -/
theorem witness_ValidationChecksInOrder :
    (sized 0 0).params.ok ∧ ¬ KeylenFormed (sized 0 0) ∧ ¬ KeylenFormed (sized 6 0) ∧
    (KeylenFormed (sized 68 0) ∧ (sized 68 0).KEYLEN.toNat / 4 > (sized 68 0).params.nkMax) ∧
    (KeylenFormed (sized 64 0) ∧ (sized 64 0).KEYLEN.toNat / 4 ≤ (sized 64 0).params.nkMax ∧
      (sized 64 0).ROUNDS = 0) ∧
    (KeylenFormed (sized 4 64) ∧ (sized 4 64).KEYLEN.toNat / 4 ≤ (sized 4 64).params.nkMax ∧
      (sized 4 64).ROUNDS ≠ 0 ∧ (sized 4 64).ROUNDS.toNat > (sized 4 64).params.rMax) ∧
    (KeylenFormed (sized 36 1) ∧ (sized 36 1).KEYLEN.toNat / 4 ≤ (sized 36 1).params.nkMax ∧
      (sized 36 1).ROUNDS ≠ 0 ∧ (sized 36 1).ROUNDS.toNat ≤ (sized 36 1).params.rMax ∧
      4 * ((sized 36 1).ROUNDS.toNat + 1) < (sized 36 1).KEYLEN.toNat / 4) ∧
    ScheduleLegal (sized 32 1) ∧ validate (sized 4 63) = .ok (1, 63) := by decide

/-- `s` with a command latched. -/
def latched (s : State) (w : Reg32) : State := { s with BUSY := true, CMDR := w }

theorem witness_FirstFailingCheckIsReported :
    (decode (latched kat 0x10000).CMDR = .error .reservedBits) ∧
    decode (latched kat 0x17FF).CMDR = .ok (.addkey 255) ∧ NeedsSchedule (.addkey 255) ∧
    decode (latched kat 0x0200).CMDR = .ok .encrypt ∧ NeedsSchedule .encrypt ∧
    ¬ KeylenFormed (latched (sized 6 10) 0x17C8) ∧
    (KeylenFormed (latched (sized 68 0) 0x0100) ∧ (sized 68 0).KEYLEN.toNat / 4 > State.reset.params.nkMax) ∧
    (KeylenFormed (latched (sized 16 0) 0x0300) ∧ (sized 16 0).ROUNDS = 0) ∧
    (KeylenFormed (latched (sized 16 64) 0x0200) ∧ (sized 16 64).ROUNDS.toNat > State.reset.params.rMax) ∧
    (KeylenFormed (latched (sized 36 1) 0x0200) ∧
      4 * ((sized 36 1).ROUNDS.toNat + 1) < (sized 36 1).KEYLEN.toNat / 4) ∧
    ScheduleLegal (latched kat 0x170B) ∧ 11 > (latched kat 0x170B).ROUNDS.toNat := by decide +kernel

/-- The outcome of a command as a state with a given error code and sticky bit. -/
def endsWith (i : Instr) (s : State) (e : ErrCode) (sticky : Bool) : Bool :=
  match exec i s with
  | .next t => t.ERRCODE == e && t.ESTICKY == sticky
  | .fault _ => false
  | .refused _ => false

theorem witness_ErrorCodesAndTheirRaisers :
    endsWith (.addkey 11) kat .eIndex true = true ∧ endsWith .expand (sized 6 0) .eKeylen true = true ∧
    endsWith .encrypt (sized 16 0) .eRounds true = true ∧ endsWith .decrypt (sized 68 0) .eRange true = true ∧
    endsWith .sub ramp .eNone false = true ∧ ramp.BUSY = false ∧
    (∃ t, coreStep (latched ramp 0x0001) = .next t) :=
  ⟨by decide +kernel, by decide +kernel, by decide +kernel, by decide +kernel, by decide +kernel, by decide,
   ⟨_, rfl⟩⟩

theorem witness_OnlyResetClearsHostRegisters :
    endsWith .encrypt { kat with ESTICKY := true } .eNone true = true ∧
    endsWith .reset { kat with ESTICKY := true } .eNone false = true := by decide +kernel

theorem witness_NopOnlyCompletes : ramp.BUSY = false := by decide

theorem witness_ResetCommandRestoresResetState :
    (latched kat 0x0200).BUSY = true ∧ Instr.encrypt ≠ .reset ∧
    endsWith .encrypt { kat with ESTICKY := true } .eNone true = true ∧
    ({ kat with ESTICKY := true } : State).ESTICKY = true := by decide +kernel

theorem witness_ResetStateHoldsResetValues :
    NeedsSchedule .expand ∧ NeedsSchedule .encrypt ∧ NeedsSchedule .decrypt ∧ NeedsSchedule (.addkey 255) := by
  decide

/-- `RCON[254]` and `RCON[255]` are the bounds of the recurrence, `RCON[204 + 51]` that of the period. -/
theorem witness_RoundConstantsByDoubling :
    (1 ≤ 254 ∧ 254 < 255) ∧ (1 ≤ 204 ∧ 204 + 51 ≤ 255) := by decide

theorem witness_DoubleLawsAndValues : 0 < 50 ∧ 50 < 51 := by decide

theorem witness_BareRotationsInvertEachOther :
    (2 : Fin 4).val = ((3 : Fin 4).val + (3 : Fin 4).val) % 4 ∧
    (0 : Fin 4).val = ((3 : Fin 4).val + 4 - (3 : Fin 4).val) % 4 := by decide

/-- Index 7 and 14 take the first branch for `Nk = 7`, 11 the second, 15 the third. -/
theorem witness_ExpandFollowsItsRecurrence :
    (upTo 28).length = 4 * 7 ∧ 1 ≤ 7 ∧ 1 ≤ 3 ∧ 7 ≤ 4 * (3 + 1) ∧ 6 < 7 ∧
    (7 ≤ 14 ∧ 14 < 16 ∧ 14 % 7 = 0) ∧ (11 % 7 ≠ 0 ∧ 7 > 6 ∧ 11 % 7 = 4) ∧
    (15 < 4 * (3 + 1) ∧ 15 % 7 ≠ 0 ∧ ¬ (7 > 6 ∧ 15 % 7 = 4)) := by decide

theorem witness_ExpandLengthAndPrefix :
    (upTo 32).length = 4 * 8 ∧ 1 ≤ 8 ∧ 1 ≤ 1 ∧ 8 ≤ 4 * (1 + 1) ∧ 1 ≤ 2 := by decide

/-- The reference tables with another entry 0, which no schedule reads. -/
def otherRcon0 : Tables :=
  { romTables with rcon := ((rconRom.headD []).set 0 0xFF) :: rconRom.tail }

/-- `Nk = 1` with 256 words, and `L = Nk`, are the bounds; the two tables differ in `RCON[0]` alone. -/
theorem witness_ScheduleIndexFacts :
    (1 ≤ 1 ∧ 1 ≤ 255 ∧ 255 ≤ 255) ∧ (1 ≤ 255 ∧ 255 ≤ 255) ∧
    ((upTo 4).length = 4 * 1 ∧ 1 ≤ 1 ∧ 1 ≤ 63 ∧ 1 ≤ 4 * (63 + 1) ∧ 4 * (63 + 1) ≤ 256) ∧
    ((upTo 32).length = 4 * 8 ∧ 8 ≤ 4 * (1 + 1)) ∧ otherRcon0 ≠ romTables ∧
    otherRcon0.sbox = romTables.sbox ∧
    (∀ j : Fin 256, 1 ≤ j.val → roundConstant otherRcon0 j.val = roundConstant romTables j.val) ∧
    (upTo 32).length = 4 * (4 * (1 + 1)) := by
  refine ⟨?_, ?_, ?_, ?_, ?_, ?_, ?_, ?_⟩ <;> decide +kernel

theorem witness_ForwardPipelineUnrolls : 1 ≤ 1 := by decide

theorem witness_InverseRoundsUndoForwardRounds : ∀ a, invSubByte romTables (subByte romTables a) = a := by
  decide +kernel

theorem witness_PipelinesInvertForAnyTables :
    (∀ a, invSubByte romTables (subByte romTables a) = a) ∧
    (∀ a, subByte romTables (invSubByte romTables a) = a) ∧ 1 ≤ 1 := by decide +kernel

theorem witness_RoundTripRestoresBlock :
    ((upTo 32).length = 4 * 8 ∧ 1 ≤ 8 ∧ 1 ≤ 1 ∧ 8 ≤ 4 * (1 + 1)) ∧
    EngineInv kat ∧ ScheduleLegal kat ∧ EngineInv katReady ∧ ScheduleLegal katReady := by decide +kernel

theorem witness_MessagesAreProcessedBlockByBlock :
    ([] : List Byte).length = 0 ∧ (upTo 15).length % 16 ≠ 0 ∧ [kat.S] ≠ [] ∧
    (upTo 16).length ≠ 0 ∧ (upTo 16).length % 16 = 0 ∧ 1 ≤ 1 := by decide

/-- The bounds of the named and the reserved windows of the map. -/
theorem witness_RegisterMapAndReservedOffsets :
    State.reset.params.nkMax ≤ 64 ∧ 0 < State.reset.params.nkMax ∧ 15 < State.reset.params.nkMax ∧
    (0x000 % 4 = 0 ∧ 0x000 ≤ 0x1FC) ∧ (0x1FC % 4 = 0 ∧ 0x1FC ≤ 0x1FC) ∧
    0x01C % 4 = 0 ∧ (0x030 ≤ 0x030 ∧ 0x030 ≤ 0x0FC) ∧ (0x030 ≤ 0x0FC ∧ 0x0FC ≤ 0x0FC) ∧
    (0x100 + 4 * State.reset.params.nkMax ≤ 0x140 ∧ 0x140 ≤ 0x1FC) ∧ 0x1FC % 4 = 0 ∧
    ¬ (AccessSize.word = .word ∧ 0x200 % 4 = 0 ∧ 0x200 ≤ 0x1FC) ∧
    ¬ (AccessSize.word = .word ∧ 0x002 % 4 = 0 ∧ 0x002 ≤ 0x1FC) ∧
    ¬ (AccessSize.half = .word ∧ 0x000 % 4 = 0 ∧ 0x000 ≤ 0x1FC) := by decide

theorem witness_HostReadsChangeNothing :
    kat.BUSY = false ∧ (latched kat 0).BUSY = true ∧ (∀ i, Reg.status ≠ .sw i) ∧ Reg.status ≠ .wdata := by
  decide

theorem witness_HostWritesByRegister : kat.BUSY = false ∧ (latched kat 0).BUSY = true := by decide

theorem witness_BlockAndKeyReadAfterWrite :
    kat.BUSY = false ∧ Memory.wf kat ∧ (3 : Fin 4) ≠ 0 ∧ 0 < kat.params.nkMax ∧ 15 < kat.params.nkMax ∧
    (15 : Nat) ≠ 0 := by decide +kernel

theorem witness_WdataShowsTheSchedule :
    EngineInv { katReady with WIDX := 43 } ∧ katReady.KS_VALID = true ∧
    ({ katReady with WIDX := 43 } : State).WIDX.toNat < 4 * (katReady.ROUNDS.toNat + 1) ∧
    EngineInv { katReady with WIDX := 44 } ∧
    4 * (katReady.ROUNDS.toNat + 1) ≤ ({ katReady with WIDX := 44 } : State).WIDX.toNat ∧
    EngineInv kat ∧ kat.KS_VALID = false := by
  refine ⟨?_, ?_, ?_, ?_, ?_, ?_, ?_⟩ <;> decide +kernel

theorem witness_WaitPollsStatus :
    (∃ s : State, s.script = [.wait] ∧ coreMoves s = false ∧ s.BUSY = true) ∧
    (∃ s : State, s.script = [.wait] ∧ coreMoves s = false ∧ s.BUSY = false) :=
  ⟨⟨{ kat with script := [.wait], BUSY := true, lag := 1 }, by decide⟩,
   ⟨{ kat with script := [.wait] }, by decide⟩⟩

theorem witness_BusyEngineIgnoresTheHost :
    (latched kat 0x200).BUSY = true ∧ HostAction.write .word 0x008 0x20 ≠ .rst ∧
    hostAct (.write .word 0x008 0x20) (latched kat 0x200) = .next (latched kat 0x200) := by
  refine ⟨rfl, by decide, rfl⟩

theorem witness_CommandsDependOnEngineOnly :
    SameEngine { kat with script := [.wait], lag := 3 } kat := by decide +kernel

theorem witness_CoreTakesItsStepEventually :
    ∃ s : State, s.BUSY = true ∧ s.lag = 2 ∧ s.script = [.wait, .read .word 0x1FC] ∧
      ∀ a ∈ s.script, a ≠ .rst ∧ Expressible a :=
  ⟨{ kat with BUSY := true, lag := 2, script := [.wait, .read .word 0x1FC] }, rfl, rfl, rfl, by
    intro a ha
    fin_cases ha <;> decide⟩

theorem witness_UnusedKeyBytesAreIgnored :
    Instr.encrypt ≠ .reset ∧ (upTo 64).take kat.KEYLEN.toNat = kat.KEY.take kat.KEYLEN.toNat ∧
    upTo 64 ≠ kat.KEY := by decide +kernel

theorem witness_StepKeepsInvariant :
    ∃ s t : State, EngineInv s ∧ step s = .next t ∧ t.KS_VALID = true :=
  ⟨latched kat 0x0100, _, by decide +kernel, rfl, by decide +kernel⟩

end Sys2Proof.Tests
end

section
/-! SUPPORT. The state family: the invariant through every operation and step, what a command leaves unchanged, the
register map, and what the registers show. -/

namespace Sys2Proof.Machine

/-! ### The tag through the operations on the state -/

theorem tagSound_of_clear {s : State} (hv : s.KS_VALID = false) (hn : s.KS_NK = 0) (hr : s.KS_R = 0) :
    TagSound s := by
  simp [TagSound, hv, hn, hr]

theorem tagSound_clearTag (s : State) : TagSound (clearTag s) := tagSound_of_clear rfl rfl rfl

/-- The two fields of the tag, eight bits each, hold the sizes of legal registers without loss. -/
theorem toNat_tag_of_legal {s : State} (hp : s.params.ok) (hl : ScheduleLegal s) :
    (BitVec.ofNat 8 (s.KEYLEN.toNat / 4)).toNat = s.KEYLEN.toNat / 4 ∧
      (BitVec.ofNat 8 s.ROUNDS.toNat).toNat = s.ROUNDS.toNat := by
  obtain ⟨-, hnk, -, hr⟩ := hp
  obtain ⟨-, hk, -, hR, -⟩ := hl
  constructor <;> rw [BitVec.toNat_ofNat, Nat.mod_eq_of_lt] <;> omega

theorem take_overwriteLow (ram w : List Word4) : (overwriteLow ram w).take w.length = w :=
  List.take_left

theorem tagSound_writeSchedule {s : State} (hp : s.params.ok) (hl : ScheduleLegal s) :
    TagSound (writeSchedule s (s.KEYLEN.toNat / 4) s.ROUNDS.toNat) := by
  obtain ⟨hnk, hr⟩ := toNat_tag_of_legal hp hl
  have hlen : (expand romTables (usedKey s) s.ROUNDS.toNat).length = 4 * (s.ROUNDS.toNat + 1) :=
    expand_length (usedKey_words hl)
  rw [TagSound, if_pos (writeSchedule_KS_VALID ..), writeSchedule_KS_NK, writeSchedule_KS_R, hnk, hr,
    writeSchedule_W, ← hlen, take_overwriteLow]
  exact ⟨validate_of_legal hl, rfl⟩

/-- A sound set tag names the round count in the register. -/
theorem tagSound_KS_R {s : State} (h : TagSound s) (hv : s.KS_VALID = true) :
    s.KS_R.toNat = s.ROUNDS.toNat := by
  rw [TagSound, if_pos hv] at h
  exact congrArg Prod.snd ((validate_ok_iff _ _).1 h.1).2

/-- Under a sound set tag `W` begins with the schedule of the registers. -/
theorem tagSound_take_W {s : State} (h : TagSound s) (hv : s.KS_VALID = true) :
    s.W.take (4 * (s.ROUNDS.toNat + 1)) = currentSchedule s := by
  have hr := tagSound_KS_R h hv
  rw [TagSound, if_pos hv, hr] at h
  exact h.2

/-! ### The flags through the operations on the state -/

theorem flagsSound_completeOk (s : State) : FlagsSound (completeOk s) := by simp [FlagsSound]

theorem flagsSound_raiseErr (e : ErrCode) (s : State) : FlagsSound (raiseErr e s) := by simp [FlagsSound]

theorem flagsSound_acceptCommand (v : Reg32) (s : State) : FlagsSound (acceptCommand v s) := by
  simp [FlagsSound]

theorem flagsSound_resetEngine (s : State) : FlagsSound (resetEngine s) := by simp [FlagsSound]

/-! ### The invariant through the operations on the state -/

theorem engineInv_completeOk {s : State} (h : EngineInv s) : EngineInv (completeOk s) := by
  obtain ⟨hp, hw, ht, -⟩ := h
  exact ⟨hp, hw, ht, flagsSound_completeOk s⟩

theorem engineInv_raiseErr {s : State} (h : EngineInv s) (e : ErrCode) : EngineInv (raiseErr e s) := by
  obtain ⟨hp, hw, ht, -⟩ := h
  exact ⟨hp, hw, ht, flagsSound_raiseErr e s⟩

theorem engineInv_acceptCommand {s : State} (h : EngineInv s) (v : Reg32) :
    EngineInv (acceptCommand v s) := by
  obtain ⟨hp, hw, ht, -⟩ := h
  exact ⟨hp, hw, ht, flagsSound_acceptCommand v s⟩

/-- The block register stands in no part of the invariant. -/
theorem engineInv_setS {s : State} (h : EngineInv s) (b : Block) : EngineInv (setS s b) := h

theorem engineInv_takeAction {s : State} (h : EngineInv s) (rest : List HostAction) :
    EngineInv (takeAction s rest) := h

theorem engineInv_writeSchedule {s : State} (h : EngineInv s) (hl : ScheduleLegal s) :
    EngineInv (writeSchedule s (s.KEYLEN.toNat / 4) s.ROUNDS.toNat) := by
  obtain ⟨hp, hw, -, hf⟩ := h
  exact ⟨hp, memory_wf_writeSchedule hw hl _, tagSound_writeSchedule hp hl, hf⟩

/-- Clearing the tag makes it sound whatever the registers hold. -/
theorem engineInv_clearTag {s : State} (hp : s.params.ok) (hw : Memory.wf s) (hf : FlagsSound s) :
    EngineInv (clearTag s) :=
  ⟨hp, hw, tagSound_clearTag s, hf⟩

theorem engineInv_resetEngine {s : State} (hp : s.params.ok) : EngineInv (resetEngine s) :=
  ⟨hp, memory_wf_resetEngine s, tagSound_of_clear rfl rfl rfl, flagsSound_resetEngine s⟩

theorem engineInv_readReg {s : State} (h : EngineInv s) (offset : Nat) (r : Reg) :
    EngineInv (readReg s offset r) := by
  unfold readReg
  split <;> exact h

theorem engineInv_acceptWrite {s : State} (h : EngineInv s) (r : Reg) (v : Reg32) :
    EngineInv (acceptWrite s r v) := by
  have ⟨hp, hw, _, hf⟩ := h
  cases r with
  | cmd => exact engineInv_acceptCommand h v
  | keylen => exact engineInv_clearTag (s := { s with KEYLEN := v }) hp hw hf
  | rounds => exact engineInv_clearTag (s := { s with ROUNDS := v }) hp hw hf
  | keyw j => exact engineInv_clearTag hp (memory_wf_setKey hw j (unpackWord v)) hf
  | sw i => exact engineInv_setS h _
  | widx => exact h
  | status => exact h
  | wdata => exact h
  | params => exact h
  | reserved => exact h

theorem engineInv_writeReg {s : State} (h : EngineInv s) (r : Reg) (v : Reg32) :
    EngineInv (writeReg s r v) := by
  unfold writeReg
  split
  · exact h
  · exact engineInv_acceptWrite h r v

theorem engineInv_pollStatus {s : State} (h : EngineInv s) : EngineInv (pollStatus s) := by
  unfold pollStatus
  split <;> exact engineInv_readReg h _ _

theorem engineInv_hostAct {a : HostAction} {s t : State} (h : EngineInv s) (ht : hostAct a s = .next t) :
    EngineInv t := by
  cases a with
  | read size offset =>
    simp only [hostAct] at ht
    split at ht <;> cases ht
    exact engineInv_readReg h _ _
  | write size offset v =>
    simp only [hostAct] at ht
    split at ht <;> cases ht
    exact engineInv_writeReg h _ v
  | wait => cases ht; exact engineInv_pollStatus h
  | rst => cases ht; exact engineInv_resetEngine h.1

theorem engineInv_effect {i : Instr} {s t : State} (h : EngineInv s) (he : CommandEffect i s t) :
    EngineInv t := by
  cases he with
  | error e => exact engineInv_raiseErr h e
  | unit b => exact engineInv_completeOk (engineInv_setS h b)
  | schedule b _ hl => exact engineInv_completeOk (engineInv_setS (engineInv_writeSchedule h hl) b)
  | reset => exact engineInv_resetEngine h.1

/-- What a command answers is one of its four effects. -/
theorem effect_of_exec {i : Instr} {s t : State} (h : exec i s = .next t) : CommandEffect i s t := by
  obtain ⟨u, hu, he⟩ := exec_effect i s
  rw [hu] at h
  cases h
  exact he

theorem engineInv_coreStep {s t : State} (h : EngineInv s) (ht : coreStep s = .next t) : EngineInv t := by
  unfold coreStep at ht
  split at ht
  · exact engineInv_effect h (effect_of_exec ht)
  · cases ht; exact engineInv_raiseErr h .eCmd

theorem engineInv_hostTurn {s t : State} (h : EngineInv s) (ht : hostTurn s = .next t) : EngineInv t := by
  unfold hostTurn at ht
  split at ht
  · cases ht; exact h
  · exact engineInv_hostAct (engineInv_takeAction h _) ht

/-- Settles O57: the core's step keeps the invariant by the four effects of a command, the host's turn by the
operation of each action. -/
theorem stepKeepsInvariant : Obligations.StepKeepsInvariant := by
  intro s t h ht
  unfold step at ht
  split at ht
  · exact engineInv_coreStep h ht
  · exact engineInv_hostTurn h ht

/-! ### What a command leaves unchanged -/

/-- Settles O21, by the four effects of a command. -/
theorem onlyResetClearsHostRegisters : Obligations.OnlyResetClearsHostRegisters := by
  intro s t i h
  cases effect_of_exec h with
  | error e => simp
  | unit b => simp
  | schedule b => simp
  | reset hi => simp [hi]

/-! ### The commands that need no schedule -/

/-- A command that needs no schedule, other than `RESET`, maps the block by a function of the block alone. -/
theorem exec_of_not_needsSchedule {i : Instr} (hn : ¬ NeedsSchedule i) (hi : i ≠ .reset) :
    ∃ f : Block → Block, ∀ s, exec i s = finish s (.ok (setS s (f s.S))) := by
  cases i with
  | nop => exact ⟨id, fun _ => rfl⟩
  | sub => exact ⟨toBlock ∘ subBytes romTables ∘ toMatrix, fun _ => rfl⟩
  | isub => exact ⟨toBlock ∘ invSubBytes romTables ∘ toMatrix, fun _ => rfl⟩
  | shl => exact ⟨toBlock ∘ rowShiftLeft ∘ toMatrix, fun _ => rfl⟩
  | shr => exact ⟨toBlock ∘ rowShiftRight ∘ toMatrix, fun _ => rfl⟩
  | mix => exact ⟨toBlock ∘ columnMix ∘ toMatrix, fun _ => rfl⟩
  | imix => exact ⟨toBlock ∘ invColumnMix ∘ toMatrix, fun _ => rfl⟩
  | xpose => exact ⟨toBlock ∘ transpose ∘ toMatrix, fun _ => rfl⟩
  | dbl => exact ⟨Block.map double, fun _ => rfl⟩
  | reset => exact absurd rfl hi
  | _ => exact absurd trivial hn

/-! ### Other key bytes above `KEYLEN` -/

/-- The state with `key` in the key buffer. -/
def withKey (key : List Byte) (s : State) : State := { s with KEY := key }

/-- Two key buffers that agree on the bytes a command uses. -/
def SameUsedKey (key : List Byte) (s : State) : Prop := usedKey (withKey key s) = usedKey s

theorem writeSchedule_withKey {key : List Byte} {s : State} (h : SameUsedKey key s) (nk R : Nat) :
    writeSchedule (withKey key s) nk R = withKey key (writeSchedule s nk R) := by
  rw [writeSchedule, h]
  rfl

theorem validate_withKey (key : List Byte) (s : State) : validate (withKey key s) = validate s := rfl

theorem computeSchedule_withKey {key : List Byte} {s : State} (h : SameUsedKey key s) :
    computeSchedule (withKey key s) = (computeSchedule s).map (withKey key) := by
  unfold computeSchedule
  rw [validate_withKey]
  cases validate s with
  | error e => rfl
  | ok p => exact congrArg Except.ok (writeSchedule_withKey h p.1 p.2)

theorem ensureSchedule_withKey {key : List Byte} {s : State} (h : SameUsedKey key s) :
    ensureSchedule (withKey key s) = (ensureSchedule s).map (withKey key) := by
  unfold ensureSchedule
  rw [validate_withKey]
  cases validate s with
  | error e => rfl
  | ok p =>
    cases hv : s.KS_VALID with
    | true => simp [withKey, hv, Except.map]
    | false => simp [writeSchedule_withKey h, show (withKey key s).KS_VALID = false from hv, Except.map]

theorem withSchedule_withKey {key : List Byte} {s : State} (h : SameUsedKey key s)
    {body : State → Except ErrCode State}
    (hb : ∀ t, body (withKey key t) = (body t).map (withKey key)) :
    withSchedule (withKey key s) body = (withSchedule s body).map (withKey key) := by
  unfold withSchedule
  rw [ensureSchedule_withKey h]
  cases ensureSchedule s with
  | error e => rfl
  | ok t => exact hb t

/-- Updates that commute with `withKey` end in states that differ in the key buffer only. -/
theorem finish_withKey {key : List Byte} {s : State} {r r' : Except ErrCode State}
    (h : r' = r.map (withKey key)) :
    ∃ t, finish s r = .next t ∧ finish (withKey key s) r' = .next (withKey key t) := by
  subst h
  cases r with
  | ok u => exact ⟨completeOk u, rfl, rfl⟩
  | error e => exact ⟨raiseErr e s, rfl, rfl⟩

theorem exec_withKey {key : List Byte} {s : State} {i : Instr} (hi : i ≠ .reset)
    (h : SameUsedKey key s) :
    ∃ t, exec i s = .next t ∧ exec i (withKey key s) = .next (withKey key t) := by
  by_cases hn : NeedsSchedule i
  · cases i with
    | expand => exact finish_withKey (computeSchedule_withKey h)
    | encrypt => exact finish_withKey (withSchedule_withKey h fun _ => rfl)
    | decrypt => exact finish_withKey (withSchedule_withKey h fun _ => rfl)
    | addkey n =>
      refine finish_withKey (withSchedule_withKey h fun t => ?_)
      by_cases hR : n > t.ROUNDS.toNat
      · rw [if_pos hR]; exact if_pos hR
      · rw [if_neg hR]; exact if_neg hR
    | _ => exact hn.elim
  · obtain ⟨f, hf⟩ := exec_of_not_needsSchedule hn hi
    rw [hf, hf]
    exact finish_withKey rfl

/-- Settles O56: a command's updates commute with the replacement of the key bytes it does not use. -/
theorem unusedKeyBytesAreIgnored : Obligations.UnusedKeyBytesAreIgnored := by
  intro s key i hi hk
  exact exec_withKey hi hk

/-! ### The register map -/

@[simp] theorem regAt_sw (p : Params) (i : Fin 4) : regAt p (0x020 + 4 * i) = .sw i := by
  fin_cases i <;> rfl

@[simp] theorem regAt_keyw {p : Params} {j : Nat} (hj : j < p.nkMax) : regAt p (0x100 + 4 * j) = .keyw j := by
  have hw : (0x100 + 4 * j - 0x100) / 4 = j := by omega
  simp (disch := omega) only [regAt, if_neg, if_pos, hw]

/-- Every offset without a name is reserved (10_state.md R41). -/
theorem regAt_reserved {p : Params} {offset : Nat}
    (h : offset = 0x01C ∨ (0x030 ≤ offset ∧ offset ≤ 0x0FC) ∨
      (0x100 + 4 * p.nkMax ≤ offset ∧ offset ≤ 0x1FC)) : regAt p offset = .reserved := by
  simp (disch := omega) only [regAt, if_neg]

theorem readReg_reserved (s : State) (offset : Nat) : readReg s offset .reserved = logRead s offset 0 := by
  simp [readReg, unsettledWhileBusy, regValue]

theorem writeReg_of_acceptWrite_eq {s : State} {r : Reg} {v : Reg32} (h : acceptWrite s r v = s) :
    writeReg s r v = s := by
  rw [writeReg, h, ite_self]

theorem writeReg_reserved (s : State) (v : Reg32) : writeReg s .reserved v = s :=
  writeReg_of_acceptWrite_eq rfl

theorem portExpresses_iff (size : AccessSize) (offset : Nat) :
    portExpresses size offset = true ↔ size = .word ∧ offset % 4 = 0 ∧ offset ≤ 0x1FC :=
  decide_eq_true_iff

section
variable {size : AccessSize} {offset : Nat} (s : State) (v : Reg32)

theorem hostAct_read (h : portExpresses size offset = true) :
    hostAct (.read size offset) s = .next (readReg s offset (regAt s.params offset)) := if_pos h

theorem hostAct_write (h : portExpresses size offset = true) :
    hostAct (.write size offset v) s = .next (writeReg s (regAt s.params offset) v) := if_pos h

theorem hostAct_read_refused (h : ¬ portExpresses size offset = true) :
    hostAct (.read size offset) s = .refused (.portCannotExpress size offset) := if_neg h

theorem hostAct_write_refused (h : ¬ portExpresses size offset = true) :
    hostAct (.write size offset v) s = .refused (.portCannotExpress size offset) := if_neg h

end

/-- Settles O47, clause by clause from the map and the two forms of an access. -/
theorem registerMapAndReservedOffsets : Obligations.RegisterMapAndReservedOffsets := by
  intro s _
  refine ⟨⟨rfl, rfl, rfl, rfl, rfl, rfl, rfl⟩, regAt_sw s.params, fun j hj => regAt_keyw hj,
    fun offset v ha hle => ?_, fun offset ha h => ?_, fun size offset v h => ?_⟩
  · have hx := (portExpresses_iff .word offset).2 ⟨rfl, ha, hle⟩
    exact ⟨hostAct_read s hx, hostAct_write s v hx⟩
  · have hx := (portExpresses_iff .word offset).2 ⟨rfl, ha, by omega⟩
    have hr := regAt_reserved h
    refine ⟨?_, fun v => ?_⟩
    · rw [hostAct_read s hx, hr, readReg_reserved]
    · rw [hostAct_write s v hx, hr, writeReg_reserved]
  · have hx := (portExpresses_iff size offset).not.2 h
    exact ⟨hostAct_read_refused s hx, hostAct_write_refused s v hx⟩

/-! ### Read after write -/

@[simp] theorem packWord_unpackWord (v : Reg32) : packWord (unpackWord v) = v := by
  dsimp only [packWord, unpackWord]
  rw [BitVec.extractLsb'_append_extractLsb'_eq_extractLsb' (start₂ := 24) (start₁ := 16) rfl,
    BitVec.extractLsb'_append_extractLsb'_eq_extractLsb' (start₂ := 16) (start₁ := 8) rfl,
    BitVec.extractLsb'_append_extractLsb'_eq_extractLsb' (start₂ := 8) (start₁ := 0) rfl]
  exact BitVec.extractLsb'_eq_self

@[simp] theorem word_setWord_same (b : Block) (i : Fin 4) (w : Word4) : (b.setWord i w).word i = w := by
  fin_cases i <;> rfl

theorem word_setWord_of_ne (b : Block) {i k : Fin 4} (h : k ≠ i) (w : Word4) :
    (b.setWord i w).word k = b.word k := by
  revert h
  fin_cases i <;> fin_cases k <;> simp [Block.word, Block.setWord]

theorem keyWord_setKeyBytes_same {s : State} {j : Nat} (h : 4 * j + 3 < s.KEY.length) (w : Word4) :
    keyWord { s with KEY := setKeyBytes s.KEY j w } j = w := by
  have h0 : 4 * j < s.KEY.length := by omega
  have h1 : 4 * j + 1 < s.KEY.length := by omega
  have h2 : 4 * j + 2 < s.KEY.length := by omega
  simp [keyWord, setKeyBytes, h0, h1, h2, h]

theorem setKeyBytes_getElem?_of_ne (key : List Byte) {j n : Nat} (h : n / 4 ≠ j) (w : Word4) :
    (setKeyBytes key j w)[n]? = key[n]? := by
  rw [setKeyBytes, List.getElem?_set_ne (by omega), List.getElem?_set_ne (by omega),
    List.getElem?_set_ne (by omega), List.getElem?_set_ne (by omega)]

theorem keyWord_setKeyBytes_of_ne (s : State) {j k : Nat} (h : k ≠ j) (w : Word4) :
    keyWord { s with KEY := setKeyBytes s.KEY j w } k = keyWord s k := by
  simp (disch := omega) [keyWord, setKeyBytes_getElem?_of_ne]

theorem writeReg_of_idle {s : State} (h : s.BUSY = false) (r : Reg) (v : Reg32) :
    writeReg s r v = acceptWrite s r v := by
  simp [writeReg, h]

/-- Settles O50: the word written is unpacked into its own bytes and packed again by the read. -/
theorem blockAndKeyReadAfterWrite : Obligations.BlockAndKeyReadAfterWrite := by
  rintro s v hb ⟨hk, -⟩
  refine ⟨fun i => ?_, fun j hj => ?_⟩ <;> rw [writeReg_of_idle hb]
  · refine ⟨?_, fun k hne => ?_⟩
    · simp [acceptWrite, regValue]
    · simp [acceptWrite, regValue, word_setWord_of_ne s.S hne]
  · constructor
    · exact (congrArg packWord (keyWord_setKeyBytes_same (by omega) _)).trans (packWord_unpackWord v)
    · exact fun k hne => congrArg packWord (keyWord_setKeyBytes_of_ne s hne _)

/-! ### `WDATA` -/

/-- Under a sound set tag the bound on `WIDX` in `WDATA` is that of the round count in the register. -/
theorem wdataValue_eq {s : State} (h : TagSound s) (hv : s.KS_VALID = true) :
    wdataValue s =
      if s.WIDX.toNat < 4 * (s.ROUNDS.toNat + 1) then packWord (s.W.getD s.WIDX.toNat .zero) else 0 := by
  simp [wdataValue, hv, tagSound_KS_R h hv]

theorem wdataValue_of_clear {s : State} (hv : s.KS_VALID = false) : wdataValue s = 0 := by
  simp [wdataValue, hv]

/-- Settles O51: a sound set tag names the round count and the words of `W` below its bound. -/
theorem wdataShowsTheSchedule : Obligations.WdataShowsTheSchedule := by
  rintro s ⟨-, -, ht, -⟩
  refine ⟨fun hv hi => ?_, fun h => ?_, fun v => writeReg_of_acceptWrite_eq rfl⟩
  · show wdataValue s = _
    rw [wdataValue_eq ht hv, if_pos hi, ← tagSound_take_W ht hv]
    simp [List.getElem?_take_of_lt hi]
  · show wdataValue s = 0
    cases hv : s.KS_VALID with
    | false => exact wdataValue_of_clear hv
    | true =>
      rw [wdataValue_eq ht hv, if_neg (by simpa [hv] using h)]

/-! ### `STATUS` -/

theorem getLsbD_append_flagBit {n : Nat} (x : BitVec n) (b : Bool) (k : Nat) :
    (x ++ flagBit b).getLsbD k = if k = 0 then b else x.getLsbD (k - 1) := by
  rw [BitVec.getLsbD_append, flagBit]
  cases k <;> simp

/-- The four low bits of `STATUS` are its flags. -/
theorem statusWord_getLsbD (s : State) {k : Nat} (hk : k < 4) :
    (statusWord s).getLsbD k =
      if k = 0 then s.BUSY else if k = 1 then s.DONE else if k = 2 then s.KS_VALID else s.ESTICKY := by
  unfold statusWord
  rw [getLsbD_append_flagBit (n := 31), getLsbD_append_flagBit (n := 30), getLsbD_append_flagBit (n := 29),
    getLsbD_append_flagBit (n := 28)]
  interval_cases k <;> rfl

/-- Above its four flags `STATUS` holds the error code, the tag and zero. -/
theorem statusWord_extractLsb'_above_flags (s : State) {k : Nat} (len : Nat) (hk : 4 ≤ k) :
    (statusWord s).extractLsb' k len =
      ((0 : BitVec 8) ++ s.KS_R ++ s.KS_NK ++ errBits s.ERRCODE).extractLsb' (k - 4) len := by
  unfold statusWord
  rw [BitVec.extractLsb'_append_eq_of_le (v := 31) (w := 1) (by omega),
    BitVec.extractLsb'_append_eq_of_le (v := 30) (w := 1) (by omega),
    BitVec.extractLsb'_append_eq_of_le (v := 29) (w := 1) (by omega),
    BitVec.extractLsb'_append_eq_of_le (v := 28) (w := 1) (by omega), Nat.sub_sub, Nat.sub_sub, Nat.sub_sub]

/-- Settles O46: the flags bit by bit, the fields above them as the parts of a concatenation. -/
theorem statusFields : Obligations.StatusFields := by
  intro s
  refine ⟨statusWord_getLsbD s (by decide), statusWord_getLsbD s (by decide),
    statusWord_getLsbD s (by decide), statusWord_getLsbD s (by decide), ?_, ?_, ?_, ?_, fun v => rfl⟩
  all_goals refine (statusWord_extractLsb'_above_flags s _ (by decide)).trans ?_
  · exact BitVec.extractLsb'_append_eq_right
  · rw [BitVec.extractLsb'_append_eq_of_le (by decide)]
    exact BitVec.extractLsb'_append_eq_right
  · rw [BitVec.extractLsb'_append_eq_of_le (by decide), BitVec.extractLsb'_append_eq_of_le (by decide)]
    exact BitVec.extractLsb'_append_eq_right
  · rw [BitVec.extractLsb'_append_eq_of_le (by decide), BitVec.extractLsb'_append_eq_of_le (by decide)]
    exact BitVec.extractLsb'_append_eq_left

/-! ### The host's turn -/

theorem step_of_not_coreMoves {s : State} (h : coreMoves s = false) : step s = hostTurn s := by
  simp [step, h]

/-- Settles O6: with no step of the core due, `step` is the host's turn. -/
theorem stepRunsNextHostAction : Obligations.StepRunsNextHostAction := by
  refine ⟨fun s a rest hs hb => ?_, fun s hb hs => ?_⟩
  · have hc : coreMoves s = false := by
      obtain hb | hl := hb
      · simp [coreMoves, hb]
      · simp [coreMoves, hl, hs]
    rw [step_of_not_coreMoves hc, hostTurn, hs]
    rfl
  · have hc : coreMoves s = false := by simp [coreMoves, hb]
    rw [step_of_not_coreMoves hc, hostTurn, hs]

/-! ### The reset state -/

theorem validate_resetOf (p : Params) : validate (State.resetOf p) = .error .eKeylen := rfl

theorem statusWord_resetOf (p : Params) : statusWord (State.resetOf p) = 0 := by
  change statusWord State.reset = 0
  decide

/-- A command that needs the schedule raises the error of a failed validation. -/
theorem exec_of_validate_error {i : Instr} (hi : NeedsSchedule i) {s : State} {e : ErrCode}
    (h : validate s = .error e) : exec i s = .next (afterError s e) := by
  have hs : ∀ body, withSchedule s body = .error e := fun body => by
    rw [withSchedule, (ensureSchedule_error_iff s e).2 h]
  cases i with
  | expand =>
    have hc : computeSchedule s = .error e := by rw [computeSchedule, h]
    exact congrArg (finish s) hc
  | encrypt => exact congrArg (finish s) (hs _)
  | decrypt => exact congrArg (finish s) (hs _)
  | addkey n => exact congrArg (finish s) (hs _)
  | _ => exact hi.elim

/-- Settles O16: `KEYLEN = 0` fails validation, whose error ends every command that needs the key. -/
theorem resetStateHoldsResetValues : Obligations.ResetStateHoldsResetValues := by
  rintro p t rfl
  exact ⟨rfl, rfl, rfl, rfl, rfl, List.length_replicate, rfl, rfl, rfl, rfl, rfl, rfl, rfl, rfl, statusWord_resetOf p,
    fun i hi => exec_of_validate_error hi (validate_resetOf p)⟩

theorem engineInv_resetOf {p : Params} (hp : p.ok) : EngineInv (State.resetOf p) :=
  engineInv_resetEngine (s := State.resetOf p) hp

/-- Settles O58, as the reset state for legal parameters. -/
theorem resetMeetsInvariant : Obligations.ResetMeetsInvariant :=
  ⟨engineInv_resetOf (by decide), rfl, by decide⟩

end Sys2Proof.Machine
end

section
/-! SUPPORT. The memory family: when a step answers, the packing of words, and what the host port keeps and writes. -/

namespace Sys2Proof.Machine

/-! ### When a step answers -/

/-- The core's step always answers: no fault and no refusal (60_exceptions.md R276). -/
theorem coreStep_next (s : State) : ∃ t, coreStep s = .next t := by
  unfold coreStep
  split
  · next i _ =>
    obtain ⟨t, ht, -⟩ := exec_effect i s
    exact ⟨t, ht⟩
  · exact ⟨_, rfl⟩

/-- A host action answers, or it is an access that the port cannot express and is refused (20_memory.md R59). -/
theorem hostAct_next_or_refused (a : HostAction) (s : State) :
    (∃ t, hostAct a s = .next t) ∨
      ∃ size offset, hostAct a s = .refused (.portCannotExpress size offset) ∧
        (a = .read size offset ∨ ∃ v, a = .write size offset v) ∧ ¬ portExpresses size offset = true := by
  cases a with
  | read size offset =>
    by_cases h : portExpresses size offset = true
    · exact .inl ⟨_, hostAct_read s h⟩
    · exact .inr ⟨size, offset, hostAct_read_refused s h, .inl rfl, h⟩
  | write size offset v =>
    by_cases h : portExpresses size offset = true
    · exact .inl ⟨_, hostAct_write s v h⟩
    · exact .inr ⟨size, offset, hostAct_write_refused s v h, .inr ⟨v, rfl⟩, h⟩
  | wait => exact .inl ⟨_, rfl⟩
  | rst => exact .inl ⟨_, rfl⟩

theorem step_of_coreMoves {s : State} (h : coreMoves s = true) : step s = coreStep s := if_pos h

/-- Settles O22: the core's step always answers, and the host's turn refuses only what the port cannot express. -/
theorem stepRefusesOnlyInexpressibleAccess : Obligations.StepRefusesOnlyInexpressibleAccess := by
  intro s
  cases hc : coreMoves s with
  | true =>
    rw [step_of_coreMoves hc]
    exact .inl (coreStep_next s)
  | false =>
    rw [step_of_not_coreMoves hc, hostTurn]
    cases hs : s.script with
    | nil => exact .inl ⟨s, rfl⟩
    | cons a rest =>
      obtain ht | ⟨size, offset, hr, ha, hx⟩ := hostAct_next_or_refused a (takeAction s rest)
      · exact .inl ht
      · exact .inr ⟨a, rest, size, offset, rfl, hr, ha, (portExpresses_iff size offset).not.1 hx⟩

/-! ### A host read keeps the engine -/

/-- A read hands over one value and at most draws one; everything else stays. -/
theorem readReg_eq_logRead (s : State) (offset : Nat) (r : Reg) :
    ∃ n v, readReg s offset r = logRead { s with draws := n } offset v := by
  unfold readReg
  split
  · exact ⟨s.draws + 1, _, rfl⟩
  · exact ⟨s.draws, _, rfl⟩

theorem sameEngine_readReg (s : State) (offset : Nat) (r : Reg) : SameEngine (readReg s offset r) s := by
  obtain ⟨n, v, h⟩ := readReg_eq_logRead s offset r
  rw [h]
  rfl

/-- `SW[i]` and `WDATA` are the registers with an unsettled value (20_memory.md R56). -/
theorem unsettledWhileBusy_eq_false {r : Reg} (hsw : ∀ i, r ≠ .sw i) (hwd : r ≠ .wdata) :
    unsettledWhileBusy r = false := by
  cases r with
  | sw i => exact absurd rfl (hsw i)
  | wdata => exact absurd rfl hwd
  | _ => rfl

theorem readReg_settled {s : State} {r : Reg} (h : s.BUSY = false ∨ unsettledWhileBusy r = false)
    (offset : Nat) : readReg s offset r = logRead s offset (regValue s r) :=
  if_neg (by obtain h | h := h <;> simp [h])

/-- The three fields of `PARAMS` (10_state.md R38). -/
theorem paramsValue_fields (s : State) :
    (paramsValue s).extractLsb' 0 8 = BitVec.ofNat 8 s.params.nkMax ∧
    (paramsValue s).extractLsb' 8 8 = BitVec.ofNat 8 s.params.rMax ∧
    (paramsValue s).extractLsb' 16 16 = 0 := by
  unfold paramsValue
  refine ⟨BitVec.extractLsb'_append_eq_right, ?_, ?_⟩ <;>
    rw [BitVec.extractLsb'_append_eq_of_le (by decide)]
  · exact BitVec.extractLsb'_append_eq_right
  · exact BitVec.extractLsb'_append_eq_left

/-- Settles O48: both branches of a read only log a value, the register's own where it is settled. -/
theorem hostReadsChangeNothing : Obligations.HostReadsChangeNothing := by
  intro s offset r
  obtain ⟨n, v, hread⟩ := readReg_eq_logRead s offset r
  obtain ⟨hnk, hr, hz⟩ := paramsValue_fields s
  refine ⟨sameEngine_readReg s offset r, by rw [hread]; rfl, by rw [hread]; rfl, ⟨v, by rw [hread]; rfl⟩,
    fun h => ?_, rfl, rfl, rfl, rfl, rfl, rfl, hnk, hr, hz, fun i => rfl, fun j => rfl⟩
  have hset := h.imp_right fun ⟨hsw, hwd⟩ => unsettledWhileBusy_eq_false hsw hwd
  rw [readReg_settled hset, logRead_log]

/-! ### What a host write does -/

theorem writeReg_of_busy {s : State} (h : s.BUSY = true) (r : Reg) (v : Reg32) : writeReg s r v = s := if_pos h

/-- Settles O49: a write is dropped while a command runs, else it is the accepted write of its register. -/
theorem hostWritesByRegister : Obligations.HostWritesByRegister := by
  refine fun s v => ⟨fun hb r => writeReg_of_busy hb r v, fun hb => ?_⟩
  simp only [writeReg_of_idle hb]
  exact ⟨⟨Config.coreLag s.draws, s.draws + 1, rfl⟩, rfl, rfl, fun j => rfl, rfl, fun i => rfl, rfl, rfl, rfl,
    rfl⟩

/-! ### The host while a command runs -/

/-- A poll of `WAIT` reads `STATUS` and at most puts the `WAIT` back. -/
theorem sameEngine_pollStatus (s : State) : SameEngine (pollStatus s) s := by
  unfold pollStatus
  split <;> exact sameEngine_readReg s _ _

theorem eq_readReg_of_hostAct {size : AccessSize} {offset : Nat} {s t : State}
    (h : hostAct (.read size offset) s = .next t) : t = readReg s offset (regAt s.params offset) := by
  by_cases hx : portExpresses size offset = true
  · rw [hostAct_read s hx] at h
    cases h
    rfl
  · rw [hostAct_read_refused s hx] at h
    cases h

theorem eq_writeReg_of_hostAct {size : AccessSize} {offset : Nat} {v : Reg32} {s t : State}
    (h : hostAct (.write size offset v) s = .next t) : t = writeReg s (regAt s.params offset) v := by
  by_cases hx : portExpresses size offset = true
  · rw [hostAct_write s v hx] at h
    cases h
    rfl
  · rw [hostAct_write_refused s v hx] at h
    cases h

/-- Settles O53: reads and polls keep the engine in any state, a write is dropped while `BUSY = 1`. -/
theorem busyEngineIgnoresTheHost : Obligations.BusyEngineIgnoresTheHost := by
  intro s t a hb ha ht
  cases a with
  | read size offset =>
    rw [eq_readReg_of_hostAct ht]
    exact sameEngine_readReg s _ _
  | write size offset v =>
    rw [eq_writeReg_of_hostAct ht, writeReg_of_busy hb]
  | wait =>
    cases ht
    exact sameEngine_pollStatus s
  | rst => exact absurd rfl ha

/-! ### Packing -/

theorem packWord_eq_or (w : Word4) :
    packWord w = (w.b0.setWidth 32 <<< 24) ||| (w.b1.setWidth 32 <<< 16) |||
      (w.b2.setWidth 32 <<< 8) ||| w.b3.setWidth 32 := by
  rw [← BitVec.setWidth_eq (packWord w), packWord]
  exact BitVec.setWidth_append_append_append_eq_shiftLeft_setWidth_or

/-- Each part that unpacking extracts is one byte of the concatenation, found below the bytes to its right. -/
@[simp] theorem unpackWord_packWord (w : Word4) : unpackWord (packWord w) = w := by
  simp (disch := decide) only [unpackWord, packWord, BitVec.extractLsb'_append_eq_of_le,
    BitVec.extractLsb'_append_eq_right, BitVec.extractLsb'_eq_self, Nat.reduceSub]

/-- Settles O45: packing is a concatenation of its bytes, each shifted into place and extracted from there. -/
theorem packingIsBigEndian : Obligations.PackingIsBigEndian :=
  ⟨packWord_eq_or, fun _ => rfl, unpackWord_packWord, packWord_unpackWord⟩

end Sys2Proof.Machine
end

section
/-! SUPPORT. The encoding family: the fields of a command word, the decoder and the opcode map, the core's turn, the
poll of `WAIT`, and that a command reads nothing but the engine. -/

namespace Sys2Proof

/-! ### The fields of a command word -/

/-- A word is its three fields, one after another (30_encoding.md R70). -/
theorem append_fields (c : Reg32) : rsvField c ++ opcodeField c ++ lowField c = c := by
  dsimp only [rsvField, opcodeField, lowField]
  rw [BitVec.extractLsb'_append_extractLsb'_eq_extractLsb' (start₂ := 16) (start₁ := 8) rfl,
    BitVec.extractLsb'_append_extractLsb'_eq_extractLsb' (start₂ := 8) (start₁ := 0) rfl]
  exact BitVec.extractLsb'_eq_self

theorem word_eq_iff_fields (c d : Reg32) :
    c = d ↔ rsvField c = rsvField d ∧ opcodeField c = opcodeField d ∧ lowField c = lowField d := by
  constructor
  · rintro rfl
    exact ⟨rfl, rfl, rfl⟩
  · rintro ⟨hrsv, hop, hlow⟩
    rw [← append_fields c, hrsv, hop, hlow, append_fields]

theorem encode_eq_of_fields {c : Reg32} {i : Instr} (hrsv : rsvField c = 0) (hop : opcodeField c = opcodeOf i)
    (hlow : lowField c = lowOf i) : encode i = c := by
  rw [encode, ← hrsv, ← hop, ← hlow, append_fields]

/-- In a legal `ADDKEY` the low byte holds the whole immediate. -/
theorem toNat_lowOf_addkey {n : Nat} (h : n ≤ 255) : (lowOf (.addkey n)).toNat = n := by
  simp only [lowOf, BitVec.toNat_ofNat]
  omega

theorem encode_addkey {n : Nat} (h : n ≤ 255) :
    encode (.addkey n) = 0x00001700#32 ||| BitVec.ofNat 32 n := by
  have hop : (0#16 ++ 0x17#8).setWidth 32 <<< 8 = 0x00001700#32 := by decide
  have hlow : (lowOf (.addkey n)).setWidth 32 = BitVec.ofNat 32 n :=
    BitVec.setWidth_ofNat_of_le_of_lt (by decide) (by omega)
  rw [← BitVec.setWidth_eq (encode (.addkey n)), encode, opcodeOf,
    BitVec.setWidth_append_eq_shiftLeft_setWidth_or, hlow]
  exact congrArg (· ||| BitVec.ofNat 32 n) hop

/-! ### Decoding -/

/-- The opcodes of the opcode map (30_encoding.md R74). -/
def definedOpcodes : List (BitVec 8) :=
  [0x00, 0x01, 0x02, 0x03, 0x10, 0x11, 0x12, 0x13, 0x14, 0x15, 0x16, 0x17, 0x18, 0xFF]

theorem decodeZ_eq_ok {op : BitVec 8} {i : Instr} (h : decodeZ op = .ok i) :
    i.wellFormed ∧ op = opcodeOf i ∧ lowOf i = 0 := by
  unfold decodeZ at h
  split at h <;> cases h <;> exact ⟨trivial, BitVec.eq_of_toNat_eq ‹_›, rfl⟩

theorem decodeZ_error_iff {op : BitVec 8} (h : op ≠ 0x17) :
    (∃ e, decodeZ op = .error e) ↔ op ∉ definedOpcodes := by
  unfold decodeZ
  split <;> simp_all [definedOpcodes, ← BitVec.toNat_inj]

theorem decode_encode_addkey {n : Nat} (h : n ≤ 255) : decode (encode (.addkey n)) = .ok (.addkey n) := by
  obtain ⟨hrsv, hop, hlow⟩ := Laws.EncodeFormat.addkey n
  rw [decode, hrsv, hop, hlow, toNat_lowOf_addkey h]
  rfl

theorem decode_encode {i : Instr} (h : i.wellFormed) : decode (encode i) = .ok i := by
  cases i with
  | addkey n => exact decode_encode_addkey h
  | _ => rfl

theorem encode_of_decode {c : Reg32} {i : Instr} (h : decode c = .ok i) : i.wellFormed ∧ encode i = c := by
  unfold decode at h
  split_ifs at h with hrsv hop hlow
  · cases h
    exact ⟨by omega, encode_eq_of_fields (not_not.1 hrsv) hop (by simp [lowOf])⟩
  · obtain ⟨hw, hop, hz⟩ := decodeZ_eq_ok h
    exact ⟨hw, encode_eq_of_fields (not_not.1 hrsv) hop (hz ▸ not_not.1 hlow)⟩

theorem decode_eq_ok_iff (c : Reg32) (i : Instr) : decode c = .ok i ↔ i.wellFormed ∧ encode i = c :=
  ⟨encode_of_decode, fun ⟨hw, hc⟩ => hc ▸ decode_encode hw⟩

/-- Settles O1: decoding is decided by the three fields, of which encoding is the concatenation. -/
theorem decodingInvertsEncoding : Obligations.DecodingInvertsEncoding := by
  refine ⟨fun i => decode_encode, fun c i => encode_of_decode, fun c => ?_, fun n => encode_addkey,
    rfl, rfl, rfl, rfl, rfl, rfl, rfl, rfl, rfl, rfl, rfl, rfl, rfl⟩
  cases h : decode c with
  | error e => exact .inl ⟨e, rfl⟩
  | ok i => exact .inr ⟨i, rfl⟩

/-! ### The rows of the opcode map -/

/-- The row of a command (30_encoding.md R74): in format I the low byte is free, in format Z the whole word is fixed. -/
def rowOf : Instr → OpcodeRow
  | .addkey _ => ⟨0x00001700, 0xFFFFFF00, .addkey⟩
  | i => ⟨encode i, 0xFFFFFFFF, fun _ => i⟩

theorem opcodeRows_eq : opcodeRows =
    [.nop, .expand, .encrypt, .decrypt, .sub, .isub, .shl, .shr, .mix, .imix, .xpose, .addkey 0, .dbl,
      .reset].map rowOf := rfl

theorem rowOf_mem_opcodeRows (i : Instr) : rowOf i ∈ opcodeRows := by
  cases i <;> simp [opcodeRows_eq, rowOf]

theorem exists_rowOf_of_mem {r : OpcodeRow} (h : r ∈ opcodeRows) : ∃ i, r = rowOf i := by
  rw [opcodeRows_eq] at h
  obtain ⟨i, -, hi⟩ := List.mem_map.1 h
  exact ⟨i, hi.symm⟩

/-- The mask of `ADDKEY` keeps the upper fields and clears the low byte. -/
theorem fields_and_addkeyMask (c : Reg32) :
    rsvField (c &&& 0xFFFFFF00) = rsvField c ∧ opcodeField (c &&& 0xFFFFFF00) = opcodeField c ∧
      lowField (c &&& 0xFFFFFF00) = 0 := by
  simp only [rsvField, opcodeField, lowField, BitVec.extractLsb'_and]
  exact ⟨BitVec.and_allOnes, BitVec.and_allOnes, BitVec.and_zero⟩

/-- The row of `ADDKEY` asks nothing of the low byte. -/
theorem rowOf_addkey_selects_iff (n : Nat) (c : Reg32) :
    (rowOf (.addkey n)).selects c ↔ rsvField c = 0 ∧ opcodeField c = 0x17 := by
  obtain ⟨hrsv, hop, hlow⟩ := fields_and_addkeyMask c
  show c &&& 0xFFFFFF00 = 0x00001700 ↔ _
  rw [word_eq_iff_fields, hrsv, hop, hlow]
  exact ⟨fun ⟨h1, h2, _⟩ => ⟨h1, h2⟩, fun ⟨h1, h2⟩ => ⟨h1, h2, rfl⟩⟩

theorem decode_eq_addkey_iff (c : Reg32) :
    decode c = .ok (.addkey (lowField c).toNat) ↔ rsvField c = 0 ∧ opcodeField c = 0x17 := by
  constructor
  · intro h
    obtain ⟨hrsv, hop, -⟩ := Laws.EncodeFormat.addkey (lowField c).toNat
    rw [(encode_of_decode h).2] at hrsv hop
    exact ⟨hrsv, hop⟩
  · rintro ⟨hrsv, hop⟩
    rw [decode, if_neg (not_not.2 hrsv), if_pos hop]

theorem wholeWordRow_selects_iff {i : Instr} (h : i.wellFormed) (c : Reg32) :
    (OpcodeRow.mk (encode i) 0xFFFFFFFF fun _ => i).selects c ↔ decode c = .ok i := by
  have hand : c &&& 0xFFFFFFFF = c := BitVec.and_allOnes
  rw [decode_eq_ok_iff, OpcodeRow.selects, hand]
  exact ⟨fun hc => ⟨h, hc.symm⟩, fun ⟨_, hc⟩ => hc.symm⟩

/-- A word selects a row exactly when it decodes to the row's command. -/
theorem rowOf_selects_iff (i : Instr) (c : Reg32) :
    (rowOf i).selects c ↔ decode c = .ok ((rowOf i).command (lowField c).toNat) := by
  cases i with
  | addkey n => exact (rowOf_addkey_selects_iff n c).trans (decode_eq_addkey_iff c).symm
  | _ => exact wholeWordRow_selects_iff trivial c

theorem rowOf_command_of_decode {c : Reg32} {i : Instr} (h : decode c = .ok i) :
    (rowOf i).command (lowField c).toNat = i := by
  obtain ⟨hw, rfl⟩ := encode_of_decode h
  cases i with
  | addkey n =>
    obtain ⟨-, -, hlow⟩ := Laws.EncodeFormat.addkey n
    rw [hlow, toNat_lowOf_addkey hw]
    rfl
  | _ => rfl

/-- A word that selects two rows has one value under both masks. -/
theorem not_selects_both {r q : OpcodeRow} (h : r.pattern &&& q.mask ≠ q.pattern &&& r.mask) (c : Reg32) :
    ¬ (r.selects c ∧ q.selects c) := by
  rintro ⟨hr, hq⟩
  apply h
  rw [← hr, ← hq, BitVec.and_assoc, BitVec.and_assoc, BitVec.and_comm r.mask]

/-- Settles O2: every row is the row of a command, and the rows' patterns differ under the masks of both. -/
theorem opcodeRowsSelectOneCommand : Obligations.OpcodeRowsSelectOneCommand := by
  refine ⟨fun c i => ⟨fun h => ?_, ?_⟩, ?_⟩
  · have hcmd := rowOf_command_of_decode h
    exact ⟨rowOf i, rowOf_mem_opcodeRows i, (rowOf_selects_iff i c).2 (by rw [hcmd, h]), hcmd.symm⟩
  · rintro ⟨r, hr, hsel, rfl⟩
    obtain ⟨j, rfl⟩ := exists_rowOf_of_mem hr
    exact (rowOf_selects_iff j c).1 hsel
  · have hdiff : opcodeRows.Pairwise fun r q => r.pattern &&& q.mask ≠ q.pattern &&& r.mask := by decide
    exact hdiff.imp not_selects_both

/-! ### Illegal words -/

theorem decode_error_iff (c : Reg32) : (∃ e, decode c = .error e) ↔
    rsvField c ≠ 0 ∨ opcodeField c ∉ definedOpcodes ∨ (opcodeField c ≠ 0x17 ∧ lowField c ≠ 0) := by
  unfold decode
  split_ifs with hrsv hop hlow
  · exact iff_of_true ⟨_, rfl⟩ (.inl hrsv)
  · simp [not_not.1 hrsv, hop, definedOpcodes]
  · exact iff_of_true ⟨_, rfl⟩ (.inr (.inr ⟨hop, hlow⟩))
  · simp [decodeZ_error_iff hop, not_not.1 hrsv, not_not.1 hlow]

end Sys2Proof

namespace Sys2Proof.Machine

/-! ### The core's turn -/

theorem coreStep_of_decode_ok {s : State} {i : Instr} (h : decode s.CMDR = .ok i) : coreStep s = exec i s := by
  rw [coreStep, h]

theorem coreStep_of_decode_error {s : State} (h : ∃ e, decode s.CMDR = .error e) :
    coreStep s = .next (afterError s .eCmd) := by
  obtain ⟨e, he⟩ := h
  rw [coreStep, he, raiseErr_eq]

/-- Settles O3: the decoder's three rejections are the three causes, and both agents' transitions are read off. -/
theorem illegalWordsEndWithECmd : Obligations.IllegalWordsEndWithECmd := by
  refine ⟨decode_error_iff, fun s c hb => ?_, fun s => coreStep_of_decode_error⟩
  rw [writeReg_of_idle hb]
  exact ⟨_, _, rfl⟩

theorem step_eq_coreStep {s : State} (hb : s.BUSY = true) (h : s.lag = 0 ∨ s.script = []) :
    step s = coreStep s :=
  step_of_coreMoves (by simp [coreMoves, hb, h])

/-- A table word and the word it latches keep the same 32 bits. -/
theorem ofNat_mod_two_pow (w : Nat) : BitVec.ofNat 32 (w % 2 ^ 32) = BitVec.ofNat 32 w :=
  BitVec.eq_of_toNat_eq (Nat.mod_mod w (2 ^ 32))

theorem decode_of_decodeTableWord {w : Nat} {i : Instr} (h : decodeTableWord 32 w = some i) :
    decode (BitVec.ofNat 32 w) = .ok i := by
  rw [decodeTableWord, ofNat_mod_two_pow, if_pos (Nat.mod_lt w (by decide))] at h
  split at h
  · next j hj => rw [hj, Option.some.inj h]
  · cases h

theorem withFetchWord_CMDR (s : State) (w : Nat) : (s.withFetchWord 32 w).CMDR = BitVec.ofNat 32 w :=
  ofNat_mod_two_pow w

/-- Settles O5: the core's step goes by what the latched word decodes to, and `withFetchWord` latches the table word. -/
theorem stepRunsLatchedCommand : Obligations.StepRunsLatchedCommand := by
  refine ⟨fun s hb h => ⟨step_eq_coreStep hb h, fun he => ?_⟩, fun s i hb h hi => ?_,
    fun s w i hi => ⟨withFetchWord_CMDR s w, ?_⟩⟩
  · rw [step_eq_coreStep hb h, coreStep_of_decode_error he]
  · rw [step_eq_coreStep hb h, coreStep_of_decode_ok hi]
  · have hdec : decode (s.withFetchWord 32 w).CMDR = .ok i := by
      rw [withFetchWord_CMDR, decode_of_decodeTableWord hi]
    rw [step_eq_coreStep rfl (.inl rfl), coreStep_of_decode_ok hdec]

/-- Settles O4, by evaluating the decoder on the eight words. -/
theorem writtenOutWordsDecode : Obligations.WrittenOutWordsDecode := by
  unfold Obligations.WrittenOutWordsDecode
  decide

/-! ### `WAIT` -/

theorem pollStatus_log (s : State) : (pollStatus s).log = s.log ++ [(0x004, regValue s .status)] := by
  unfold pollStatus
  rw [readReg_settled (.inr rfl)]
  split <;> rfl

theorem pollStatus_script (s : State) :
    (pollStatus s).script = if s.BUSY then .wait :: s.script else s.script := by
  unfold pollStatus
  rw [readReg_settled (.inr rfl)]
  split <;> rfl

theorem hostTurn_cons {s : State} {a : HostAction} {rest : List HostAction} (h : s.script = a :: rest) :
    hostTurn s = hostAct a (takeAction s rest) := by
  rw [hostTurn, h]

/-- Settles O52: the poll logs `STATUS`, whose bit 0 is `BUSY`, and puts the `WAIT` back while it is set. -/
theorem waitPollsStatus : Obligations.WaitPollsStatus := by
  intro s rest hs hc
  have hbusy : (regValue s .status).getLsbD 0 = s.BUSY := statusWord_getLsbD s (by decide)
  refine ⟨pollStatus (takeAction s rest), ?_, sameEngine_pollStatus (takeAction s rest), pollStatus_log _,
    fun hb => ⟨hbusy.trans hb, ?_⟩, fun hb => ⟨hbusy.trans hb, ?_⟩⟩
  · rw [step_of_not_coreMoves hc, hostTurn_cons hs]
    rfl
  all_goals simp [pollStatus_script, hb]

/-! ### Commands and the model's own fields -/

/-- The engine of a state: the model's own fields emptied. -/
def engineOf (s : State) : State := { s with script := [], log := [], lag := 0, draws := 0 }

theorem validate_engineOf (s : State) : validate (engineOf s) = validate s := rfl

theorem computeSchedule_engineOf (s : State) :
    computeSchedule (engineOf s) = (computeSchedule s).map engineOf := by
  unfold computeSchedule
  rw [validate_engineOf]
  cases validate s <;> rfl

theorem ensureSchedule_engineOf (s : State) :
    ensureSchedule (engineOf s) = (ensureSchedule s).map engineOf := by
  unfold ensureSchedule
  rw [validate_engineOf]
  cases validate s with
  | error e => rfl
  | ok p => exact (apply_ite (Except.map engineOf) (s.KS_VALID = true) (.ok s) (.ok (writeSchedule s _ _))).symm

theorem withSchedule_engineOf {body : State → Except ErrCode State}
    (hb : ∀ t, body (engineOf t) = (body t).map engineOf) (s : State) :
    withSchedule (engineOf s) body = (withSchedule s body).map engineOf := by
  unfold withSchedule
  rw [ensureSchedule_engineOf]
  cases ensureSchedule s with
  | error e => rfl
  | ok t => exact hb t

theorem finish_engineOf {s : State} {r r' : Except ErrCode State} (h : r' = r.map engineOf) :
    ∃ t, finish s r = .next t ∧ finish (engineOf s) r' = .next (engineOf t) := by
  subst h
  cases r with
  | ok u => exact ⟨completeOk u, rfl, rfl⟩
  | error e => exact ⟨raiseErr e s, rfl, rfl⟩

theorem exec_engineOf (i : Instr) (s : State) :
    ∃ t, exec i s = .next t ∧ exec i (engineOf s) = .next (engineOf t) := by
  cases i with
  | expand => exact finish_engineOf (computeSchedule_engineOf s)
  | encrypt => exact finish_engineOf (withSchedule_engineOf (fun _ => rfl) s)
  | decrypt => exact finish_engineOf (withSchedule_engineOf (fun _ => rfl) s)
  | addkey n =>
    refine finish_engineOf (withSchedule_engineOf (fun t => ?_) s)
    by_cases hR : n > t.ROUNDS.toNat
    · rw [if_pos hR]; exact if_pos hR
    · rw [if_neg hR]; exact if_neg hR
  | _ => exact ⟨_, rfl, rfl⟩

/-- Settles O54: a command commutes with emptying the model's own fields, so equal engines give equal engines. -/
theorem commandsDependOnEngineOnly : Obligations.CommandsDependOnEngineOnly := by
  intro s s' i h
  obtain ⟨t, ht, het⟩ := exec_engineOf i s
  obtain ⟨t', ht', het'⟩ := exec_engineOf i s'
  refine ⟨t, t', ht, ht', ?_⟩
  rw [show engineOf s = engineOf s' from h, het'] at het
  exact (Host.Outcome.next.inj het).symm

end Sys2Proof.Machine
end

section
/-! SUPPORT. The field family: `Double` and the product of the field as additive maps, the three tables, and the
unit commands that work byte by byte. -/

namespace Sys2Proof

/-! ### Byte functions over words and matrices -/

theorem Word4.map_leftInverse {f g : Byte → Byte} (h : Function.LeftInverse g f) :
    Function.LeftInverse (Word4.map g) (Word4.map f) := by
  rintro ⟨b0, b1, b2, b3⟩
  simp only [Word4.map, h _]

theorem Mat4.mapRows_leftInverse {f g : Word4 → Word4} (h : Function.LeftInverse g f) :
    Function.LeftInverse (Mat4.mapRows g) (Mat4.mapRows f) := by
  rintro ⟨r0, r1, r2, r3⟩
  simp only [Mat4.mapRows, h _]

end Sys2Proof

namespace Sys2Proof.Machine

/-! ### `Double` -/

/-- A result bit of `Double` is the bit below it, and bit 7 folded in where 0x1B has a bit (R90). -/
theorem double_getLsbD (a : Byte) {k : Nat} (hk : k < 8) :
    (double a).getLsbD k = ((!decide (k < 1) && a.getLsbD (k - 1)) ^^ (a.getLsbD 7 && (0x1B : Byte).getLsbD k)) := by
  unfold double
  rw [BitVec.getLsbD_xor, BitVec.getLsbD_shiftLeft, decide_eq_true hk, Bool.true_and]
  cases a.getLsbD 7 <;> simp

/-- Settles O23: the formula is the definition, and each result bit is a case of the one law. -/
theorem doubleBitByBit : Obligations.DoubleBitByBit := by
  refine fun a => ⟨rfl, ?_, ?_, ?_, ?_, ?_, ?_, ?_, ?_⟩ <;> rw [double_getLsbD a (by decide)] <;> simp

/-- Shifting is linear, and so is folding in the constant, which goes by the exclusive-or of the two top bits. -/
theorem double_xor (a b : Byte) : double (a ^^^ b) = double a ^^^ double b := by
  have hfold : (if (a ^^^ b).getLsbD 7 then 0x1B else 0x00 : Byte) =
      (if a.getLsbD 7 then 0x1B else 0x00) ^^^ (if b.getLsbD 7 then 0x1B else 0x00) := by
    rw [BitVec.getLsbD_xor]
    cases a.getLsbD 7 <;> cases b.getLsbD 7 <;> rfl
  rw [double, hfold, BitVec.shiftLeft_xor_distrib, double, double]
  ac_rfl

theorem double_zero : double 0 = 0 := rfl

theorem doubleN_eq_iterate (k : Nat) : doubleN k = double^[k] := by
  induction k with
  | zero => rfl
  | succ k ih => rw [Function.iterate_succ', ← ih]; rfl

theorem doubleN_add (m n : Nat) (a : Byte) : doubleN (m + n) a = doubleN m (doubleN n a) := by
  simp only [doubleN_eq_iterate, Function.iterate_add_apply]

theorem doubleN_double (k : Nat) (a : Byte) : doubleN k (double a) = double (doubleN k a) :=
  (doubleN_add k 1 a).symm

theorem doubleN_xor (k : Nat) (a b : Byte) : doubleN k (a ^^^ b) = doubleN k a ^^^ doubleN k b := by
  induction k with
  | zero => rfl
  | succ k ih => rw [doubleN, ih, double_xor]; rfl

/-! ### The product of the field -/

theorem gfTerm_xor_left (a b c : Byte) (k : Nat) : gfTerm (a ^^^ b) c k = gfTerm a c k ^^^ gfTerm b c k := by
  unfold gfTerm
  split
  · exact doubleN_xor k a b
  · rfl

theorem gfTerm_xor_right (a b c : Byte) (k : Nat) : gfTerm a (b ^^^ c) k = gfTerm a b k ^^^ gfTerm a c k := by
  unfold gfTerm
  rw [BitVec.getLsbD_xor]
  cases b.getLsbD k <;> cases c.getLsbD k <;> simp

theorem gfTerm_double_left (a b : Byte) (k : Nat) : gfTerm (double a) b k = double (gfTerm a b k) := by
  unfold gfTerm
  split
  · exact doubleN_double k a
  · exact double_zero.symm

theorem gfMul_xor_left (a b c : Byte) : gfMul (a ^^^ b) c = gfMul a c ^^^ gfMul b c := by
  simp only [gfMul, gfTerm_xor_left]
  ac_rfl

theorem gfMul_xor_right (a b c : Byte) : gfMul a (b ^^^ c) = gfMul a b ^^^ gfMul a c := by
  simp only [gfMul, gfTerm_xor_right]
  ac_rfl

theorem gfMul_double_left (a b : Byte) : gfMul (double a) b = double (gfMul a b) := by
  simp only [gfMul, gfTerm_double_left, double_xor]

theorem gfMul_one_right (a : Byte) : gfMul a 1 = a := by
  simp [gfMul, gfTerm, doubleN]

/-- Every byte is the exclusive-or of the powers of x that its set bits name. -/
theorem gfMul_one_left (b : Byte) : gfMul 1 b = b := by
  decide +revert +kernel

/-- What the laws of the product turn on: an additive function that commutes with `Double` is a multiplication, by
its value at 1, because every byte is an exclusive-or of doublings of 1. -/
theorem eq_gfMul_of_additive {f : Byte → Byte} (hxor : ∀ x y, f (x ^^^ y) = f x ^^^ f y)
    (hdouble : ∀ x, f (double x) = double (f x)) (b : Byte) : f b = gfMul (f 1) b := by
  have hzero : f 0 = 0 := (hxor 0 0).trans BitVec.xor_self
  have hdoubleN : ∀ k, f (doubleN k 1) = doubleN k (f 1) := by
    intro k
    induction k with
    | zero => rfl
    | succ k ih => rw [doubleN, hdouble, ih]; rfl
  have hterm : ∀ k, f (gfTerm 1 b k) = gfTerm (f 1) b k := by
    intro k
    rw [gfTerm, apply_ite f, hdoubleN, hzero]
    rfl
  conv_lhs => rw [← gfMul_one_left b]
  simp only [gfMul, hxor, hterm]

theorem gfMul_comm (a b : Byte) : gfMul a b = gfMul b a := by
  have h := eq_gfMul_of_additive (f := (gfMul · a)) (fun x y => gfMul_xor_left x y a)
    (fun x => gfMul_double_left x a) b
  rw [gfMul_one_left] at h
  exact h.symm

theorem gfMul_assoc (a b c : Byte) : gfMul (gfMul a b) c = gfMul a (gfMul b c) := by
  have h := eq_gfMul_of_additive (f := fun x => gfMul (gfMul x b) c)
    (fun x y => by rw [gfMul_xor_left, gfMul_xor_left])
    (fun x => by rw [gfMul_double_left, gfMul_double_left]) a
  rw [gfMul_one_left] at h
  rw [h, gfMul_comm]

/-- Settles O25: additivity in both factors, and commutativity and associativity from it. -/
theorem fieldProductLaws : Obligations.FieldProductLaws := by
  refine ⟨fun a b => ?_, gfMul_comm, gfMul_assoc, gfMul_xor_right, gfMul_xor_left,
    fun a => ⟨gfMul_one_right a, ?_, ?_⟩, by decide, by decide, by decide⟩
  · simp [gfMul, gfTerm, List.range_succ]
  · rw [gfMul_comm, show (0x02 : Byte) = double 1 from rfl, gfMul_double_left, gfMul_one_left]
  · simp [gfMul, gfTerm]

/-! ### The order and the inverse of `Double` -/

/-- Doubling a byte is multiplying it by the same doubling of 1. -/
theorem doubleN_eq_gfMul (k : Nat) (a : Byte) : doubleN k a = gfMul (doubleN k 1) a :=
  eq_gfMul_of_additive (doubleN_xor k) (doubleN_double k) a

theorem doubleN_51 (a : Byte) : doubleN 51 a = a := by
  have hone : doubleN 51 1 = 1 := by decide +kernel
  rw [doubleN_eq_gfMul, hone, gfMul_one_left]

/-- The inverse that R91 (c) gives for `Double`. -/
def halve (a : Byte) : Byte := (a >>> 1) ^^^ (if a.getLsbD 0 then 0x8D else 0x00)

theorem halve_double (a : Byte) : halve (double a) = a := by
  decide +revert +kernel

/-- Every byte is a double, of its fiftieth doubling, so the inverse on one side is one on the other. -/
theorem double_halve (a : Byte) : double (halve a) = a := by
  have ha : double (doubleN 50 a) = a := doubleN_51 a
  rw [← ha, halve_double]

/-- Settles O24: the order from the order at 1, the inverse from its one side, the values by evaluation. -/
theorem doubleLawsAndValues : Obligations.DoubleLawsAndValues := by
  have horder : ∀ k < 51, 0 < k → doubleN k 1 ≠ 1 := by decide +kernel
  exact ⟨fun a b => (double_xor a b).symm, double_zero, halve_double, double_halve, doubleN_51,
    fun k hpos hk => horder k hk hpos, rfl, rfl, rfl, rfl, rfl, rfl, rfl, rfl, rfl, rfl⟩

/-! ### `SBOX` and `ISBOX` -/

/-- The first equation of R107, entry by entry. -/
theorem invSubByte_subByte (a : Byte) : invSubByte romTables (subByte romTables a) = a := by
  decide +revert +kernel

/-- A left inverse on the finitely many bytes is a right inverse. -/
theorem subByte_invSubByte (a : Byte) : subByte romTables (invSubByte romTables a) = a :=
  have hleft : Function.LeftInverse (invSubByte romTables) (subByte romTables) := invSubByte_subByte
  hleft.rightInverse_of_surjective (Finite.injective_iff_surjective.1 hleft.injective) a

theorem invSubBytes_subBytes {T : Tables} (h : ∀ a, invSubByte T (subByte T a) = a) (m : Mat4) :
    invSubBytes T (subBytes T m) = m :=
  Mat4.mapRows_leftInverse (Word4.map_leftInverse h) m

theorem subBytes_invSubBytes {T : Tables} (h : ∀ a, subByte T (invSubByte T a) = a) (m : Mat4) :
    subBytes T (invSubBytes T m) = m :=
  Mat4.mapRows_leftInverse (Word4.map_leftInverse h) m

/-- Settles O28: the inverses on bytes, carried to every entry of a matrix. -/
theorem substitutionsInvertEachOther : Obligations.SubstitutionsInvertEachOther :=
  ⟨fun a => ⟨invSubByte_subByte a, subByte_invSubByte a⟩,
    fun m => ⟨invSubBytes_subBytes invSubByte_subByte m, subBytes_invSubBytes subByte_invSubByte m⟩⟩

/-- Settles O27: `ISBOX` inverts `SBOX` on both sides; the entries are compared with their addresses. -/
theorem sboxIsBijectionWithoutFixedPoints : Obligations.SboxIsBijectionWithoutFixedPoints := by
  refine ⟨Function.bijective_iff_has_inverse.2 ⟨_, invSubByte_subByte, subByte_invSubByte⟩, ?_⟩
  decide +kernel

/-- The inverse of the affine map of R100. -/
def affineInv (c : Byte) : Byte := c.rotateLeft 1 ^^^ c.rotateLeft 3 ^^^ c.rotateLeft 6 ^^^ 0x05

theorem affine_affineInv (c : Byte) : affine (affineInv c) = c := by
  decide +revert +kernel

/-- Undoing the affine map on an entry of `SBOX` leaves the field inverse of its address. -/
theorem affineInv_subByte (a : Byte) :
    if a = 0 then affineInv (subByte romTables a) = 0 else gfMul a (affineInv (subByte romTables a)) = 0x01 := by
  decide +revert +kernel

/-- Settles O26: the field inverse is the entry with the affine map undone. -/
theorem sboxIsAffineOfInverse : Obligations.SboxIsAffineOfInverse :=
  ⟨rfl, fun a => ⟨affineInv (subByte romTables a), affineInv_subByte a, (affine_affineInv _).symm⟩⟩

/-! ### `RCON` -/

theorem roundConstant_recurrence :
    ∀ j < 255, 1 ≤ j → roundConstant romTables (j + 1) = double (roundConstant romTables j) := by
  decide +kernel

theorem roundConstant_succ {j : Nat} (hj : j < 255) : roundConstant romTables (j + 1) = doubleN j 1 := by
  induction j with
  | zero => rfl
  | succ j ih => rw [roundConstant_recurrence (j + 1) hj (by omega), ih (by omega)]; rfl

/-- The entries are doublings of 1, so they have its period. -/
theorem roundConstant_period {j : Nat} (hj : 1 ≤ j) (hlast : j + 51 ≤ 255) :
    roundConstant romTables (j + 51) = roundConstant romTables j := by
  obtain ⟨i, rfl⟩ := Nat.exists_eq_add_of_le' hj
  rw [show i + 1 + 51 = i + 51 + 1 by omega, roundConstant_succ (by omega), roundConstant_succ (by omega),
    doubleN_add, doubleN_51]

/-- Settles O29: the recurrence entry by entry, and from it the period. -/
theorem roundConstantsByDoubling : Obligations.RoundConstantsByDoubling :=
  ⟨rfl, rfl, fun j hpos hj => roundConstant_recurrence j hj hpos, fun _ => roundConstant_period, rfl⟩

/-! ### The commands that work byte by byte -/

theorem map_eq_ofFn (f : Byte → Byte) (b : Block) : b.map f = Block.ofFn fun k => f (b.get k) := rfl

/-- Mapping the rows of a block's matrix is mapping its bytes. -/
theorem toBlock_mapRows_toMatrix (f : Byte → Byte) (b : Block) :
    toBlock ((toMatrix b).mapRows (·.map f)) = Block.ofFn fun k => f (b.get k) := rfl

theorem exec_dbl (s : State) : exec .dbl s = .next (afterUnit s (s.S.map double)) := rfl

theorem exec_sub (s : State) :
    exec .sub s = .next (afterUnit s (toBlock (subBytes romTables (toMatrix s.S)))) := rfl

theorem exec_isub (s : State) :
    exec .isub s = .next (afterUnit s (toBlock (invSubBytes romTables (toMatrix s.S)))) := rfl

/-- Settles O7: each command maps the bytes of `S`, on the block itself or on the rows of its matrix. -/
theorem byteUnitCommandsComplete : Obligations.ByteUnitCommandsComplete := by
  refine ⟨rfl, rfl, rfl, rfl, rfl, rfl, rfl, rfl, rfl, fun s => ⟨?_, ?_, ?_, ?_⟩⟩
  · rw [subBytes, toBlock_mapRows_toMatrix]
  · rw [exec_dbl, map_eq_ofFn]
  · rw [exec_sub, subBytes, toBlock_mapRows_toMatrix]
  · rw [exec_isub, invSubBytes, toBlock_mapRows_toMatrix]

end Sys2Proof.Machine
end

section
/-! SUPPORT. The transform family: words, blocks and matrices by index, the transforms on them, `MixWord` and
`PreMixWord` as circulant field matrices, and the unit commands that rearrange, mix and add a round key. -/

namespace Sys2Proof

/-! ### Words, blocks and matrices by index -/

@[simp] theorem Word4.get_ofFn (f : Fin 4 → Byte) (j : Fin 4) : (Word4.ofFn f).get j = f j := by
  fin_cases j <;> rfl

theorem Word4.ext_get {v w : Word4} (h : ∀ j, v.get j = w.get j) : v = w :=
  congrArg Word4.ofFn (funext h)

@[simp] theorem Word4.get_xor (v w : Word4) (j : Fin 4) : (v.xor w).get j = v.get j ^^^ w.get j := by
  fin_cases j <;> rfl

@[simp] theorem Block.get_ofFn (f : Fin 16 → Byte) (k : Fin 16) : (Block.ofFn f).get k = f k := by
  fin_cases k <;> rfl

@[simp] theorem Mat4.get_ofFn (f : Fin 4 → Fin 4 → Byte) (i j : Fin 4) : (Mat4.ofFn f).get i j = f i j := by
  fin_cases i <;> exact Word4.get_ofFn _ j

theorem Mat4.ext_get {m n : Mat4} (h : ∀ i j, m.get i j = n.get i j) : m = n :=
  congrArg Mat4.ofFn (funext fun i => funext (h i))

theorem Mat4.get_mapRows (f : Word4 → Word4) (m : Mat4) (i j : Fin 4) :
    (m.mapRows f).get i j = (f (m.row i)).get j := by
  fin_cases i <;> rfl

theorem Mat4.get_row (m : Mat4) (i j : Fin 4) : (m.row i).get j = m.get i j := rfl

@[simp] theorem Mat4.get_xor (m k : Mat4) (i j : Fin 4) : (m.xor k).get i j = m.get i j ^^^ k.get i j := by
  fin_cases i <;> exact Word4.get_xor _ _ j

theorem Mat4.mapRows_mapRows (f g : Word4 → Word4) (m : Mat4) :
    (m.mapRows f).mapRows g = m.mapRows (g ∘ f) := rfl

end Sys2Proof

namespace Sys2Proof.Machine

/-! ### Blocks as matrices -/

@[simp] theorem toMatrix_get (b : Block) (i j : Fin 4) :
    (toMatrix b).get i j = b.get ⟨4 * i.val + j.val, by omega⟩ :=
  Mat4.get_ofFn _ i j

@[simp] theorem toBlock_get (m : Mat4) (i j : Fin 4) :
    (toBlock m).get ⟨4 * i.val + j.val, by omega⟩ = m.get i j := by
  have hrow : (4 * i.val + j.val) / 4 = i.val := by omega
  have hcol : (4 * i.val + j.val) % 4 = j.val := by omega
  simp only [toBlock, Block.get_ofFn, hrow, hcol]

@[simp] theorem toBlock_toMatrix (b : Block) : toBlock (toMatrix b) = b := rfl

@[simp] theorem toMatrix_toBlock (m : Mat4) : toMatrix (toBlock m) = m :=
  Mat4.ext_get fun i j => (toMatrix_get _ i j).trans (toBlock_get m i j)

/-- Settles O30: the two conversions by index, and from them the inverses. -/
theorem blockMatrixConversions : Obligations.BlockMatrixConversions :=
  ⟨toMatrix_get, toBlock_get, toBlock_toMatrix, toMatrix_toBlock⟩

/-! ### Transpose and rotations -/

@[simp] theorem transpose_get (m : Mat4) (i j : Fin 4) : (transpose m).get i j = m.get j i :=
  Mat4.get_ofFn _ i j

@[simp] theorem transpose_transpose (m : Mat4) : transpose (transpose m) = m :=
  Mat4.ext_get fun i j => by rw [transpose_get, transpose_get]

@[simp] theorem rotRowsLeft_get (m : Mat4) (i j : Fin 4) : (rotRowsLeft m).get i j = m.get i (j + i) :=
  Mat4.get_ofFn _ i j

@[simp] theorem rotRowsRight_get (m : Mat4) (i j : Fin 4) : (rotRowsRight m).get i j = m.get i (j - i) :=
  Mat4.get_ofFn _ i j

theorem rotRowsRight_rotRowsLeft (m : Mat4) : rotRowsRight (rotRowsLeft m) = m :=
  Mat4.ext_get fun i j => by rw [rotRowsRight_get, rotRowsLeft_get, sub_add_cancel]

theorem rotRowsLeft_rotRowsRight (m : Mat4) : rotRowsLeft (rotRowsRight m) = m :=
  Mat4.ext_get fun i j => by rw [rotRowsLeft_get, rotRowsRight_get, add_sub_cancel_right]

/-- Subtraction of columns as the remainder that R125 writes. -/
theorem val_sub_eq_mod (i j : Fin 4) : (j - i).val = (j.val + 4 - i.val) % 4 := by
  rw [Fin.val_sub]
  omega

/-- Settles O31: the rotations add and subtract the row's index from the column's. -/
theorem bareRotationsInvertEachOther : Obligations.BareRotationsInvertEachOther := by
  refine ⟨fun m i j k hk => ?_, fun m i j k hk => ?_,
    fun m => ⟨rotRowsRight_rotRowsLeft m, rotRowsLeft_rotRowsRight m⟩⟩
  · have hcol : k = j + i := Fin.ext hk
    rw [rotRowsLeft_get, hcol]
  · have hcol : k = j - i := Fin.ext (hk.trans (val_sub_eq_mod i j).symm)
    rw [rotRowsRight_get, hcol]

/-! ### The row shifts -/

theorem rowShiftLeft_transpose (m : Mat4) : rowShiftLeft (transpose m) = rotRowsLeft m := by
  rw [rowShiftLeft, transpose_transpose]

theorem rowShiftRight_transpose (m : Mat4) : rowShiftRight (transpose m) = rotRowsRight m := by
  rw [rowShiftRight, transpose_transpose]

theorem rowShiftRight_transpose_rowShiftLeft (m : Mat4) :
    rowShiftRight (transpose (rowShiftLeft m)) = transpose m := by
  rw [rowShiftRight_transpose, rowShiftLeft, rotRowsRight_rotRowsLeft]

/-- The matrix with a single 1, in row 0 and column 1: where it moves, a transform does not fix every matrix. -/
def unit01 : Mat4 := .ofFn fun i j => if i = 0 ∧ j = 1 then 1 else 0

/-- Settles O32: the transpose between the shifts cancels the one that the second carries. -/
theorem rowShiftsInvertThroughTranspose : Obligations.RowShiftsInvertThroughTranspose := by
  refine ⟨rowShiftRight_transpose_rowShiftLeft, fun m => ?_, unit01, by decide, by decide⟩
  rw [rowShiftRight_transpose_rowShiftLeft, transpose_transpose]

/-! ### Circulant field matrices -/

/-- The field matrix with first row `a`, each row below it rotated right by one more, applied to a word. -/
def circulant (a c : Word4) : Word4 := .ofFn fun i =>
  gfMul (c.get i) a.b0 ^^^ gfMul (c.get (i + 1)) a.b1 ^^^ gfMul (c.get (i + 2)) a.b2 ^^^ gfMul (c.get (i + 3)) a.b3

theorem circulant_get (a c : Word4) (i : Fin 4) : (circulant a c).get i =
    gfMul (c.get i) a.b0 ^^^ gfMul (c.get (i + 1)) a.b1 ^^^ gfMul (c.get (i + 2)) a.b2 ^^^
      gfMul (c.get (i + 3)) a.b3 :=
  Word4.get_ofFn _ i

/-- The matrix written out. -/
theorem circulant_mk (a : Word4) (c0 c1 c2 c3 : Byte) : circulant a ⟨c0, c1, c2, c3⟩ =
    ⟨gfMul c0 a.b0 ^^^ gfMul c1 a.b1 ^^^ gfMul c2 a.b2 ^^^ gfMul c3 a.b3,
     gfMul c1 a.b0 ^^^ gfMul c2 a.b1 ^^^ gfMul c3 a.b2 ^^^ gfMul c0 a.b3,
     gfMul c2 a.b0 ^^^ gfMul c3 a.b1 ^^^ gfMul c0 a.b2 ^^^ gfMul c1 a.b3,
     gfMul c3 a.b0 ^^^ gfMul c0 a.b1 ^^^ gfMul c1 a.b2 ^^^ gfMul c2 a.b3⟩ := rfl

theorem circulant_xor (a c d : Word4) : circulant a (c.xor d) = (circulant a c).xor (circulant a d) :=
  Word4.ext_get fun i => by
    simp only [circulant_get, Word4.get_xor, gfMul_xor_left]
    ac_rfl

/-- The product of two circulant matrices is circulant: its first row is that of the second, under the transpose
of the first. -/
theorem circulant_circulant (a b c : Word4) :
    circulant a (circulant b c) = circulant (circulant ⟨a.b0, a.b3, a.b2, a.b1⟩ b) c := by
  obtain ⟨b0, b1, b2, b3⟩ := b
  obtain ⟨c0, c1, c2, c3⟩ := c
  simp only [circulant_mk, gfMul_xor_left, gfMul_xor_right, gfMul_assoc, Word4.mk.injEq]
  refine ⟨?_, ?_, ?_, ?_⟩ <;> ac_rfl

theorem gfMul_zero_right (a : Byte) : gfMul a 0 = 0#8 := by simp [gfMul, gfTerm]

theorem circulant_one (c : Word4) : circulant ⟨1, 0, 0, 0⟩ c = c :=
  Word4.ext_get fun i => by
    simp only [circulant_get, gfMul_one_right, gfMul_zero_right, BitVec.xor_zero]

/-! ### `MixWord` and `PreMixWord` -/

theorem double_eq_gfMul (a : Byte) : double a = gfMul a 0x02 :=
  (doubleN_eq_gfMul 1 a).trans (gfMul_comm _ a)

theorem double_double_eq_gfMul (a : Byte) : double (double a) = gfMul a 0x04 :=
  (doubleN_eq_gfMul 2 a).trans (gfMul_comm _ a)

/-- A byte of `MixWord`: the exclusive-or `t` of all four cancels the byte it is added to, and the doubling of a
sum is a product with 02 of each part. -/
theorem mixByte_eq_gfMul {a b c d t : Byte} (ht : t = a ^^^ (b ^^^ c ^^^ d)) :
    a ^^^ t ^^^ double (a ^^^ b) = gfMul a 0x02 ^^^ gfMul b 0x03 ^^^ gfMul c 0x01 ^^^ gfMul d 0x01 := by
  have hcancel : a ^^^ t = b ^^^ c ^^^ d := by
    rw [ht, ← BitVec.xor_assoc, BitVec.xor_self, BitVec.zero_xor]
  rw [hcancel, double_xor, double_eq_gfMul, double_eq_gfMul, show (0x03 : Byte) = 0x02 ^^^ 0x01 from rfl,
    gfMul_xor_right, gfMul_one_right, gfMul_one_right, gfMul_one_right]
  ac_rfl

theorem mixWord_eq_circulant (c : Word4) : mixWord c = circulant ⟨0x02, 0x03, 0x01, 0x01⟩ c := by
  obtain ⟨c0, c1, c2, c3⟩ := c
  simp only [circulant_mk, mixWord, Word4.mk.injEq]
  refine ⟨mixByte_eq_gfMul ?_, mixByte_eq_gfMul ?_, mixByte_eq_gfMul ?_, mixByte_eq_gfMul ?_⟩ <;> ac_rfl

/-- A byte of `PreMixWord`: two doublings are a product with 04. -/
theorem preMixByte_eq_gfMul {a b c d x : Byte} (hx : x = double (a ^^^ c)) :
    a ^^^ double x = gfMul a 0x05 ^^^ gfMul b 0x00 ^^^ gfMul c 0x04 ^^^ gfMul d 0x00 := by
  rw [hx, double_double_eq_gfMul, gfMul_xor_left, show (0x05 : Byte) = 0x01 ^^^ 0x04 from rfl, gfMul_xor_right,
    gfMul_one_right, gfMul_zero_right, gfMul_zero_right, BitVec.xor_zero, BitVec.xor_zero, BitVec.xor_assoc]

theorem preMixWord_eq_circulant (c : Word4) : preMixWord c = circulant ⟨0x05, 0x00, 0x04, 0x00⟩ c := by
  obtain ⟨c0, c1, c2, c3⟩ := c
  simp only [circulant_mk, preMixWord, Word4.mk.injEq]
  exact ⟨preMixByte_eq_gfMul rfl, preMixByte_eq_gfMul rfl,
    preMixByte_eq_gfMul (congrArg double (BitVec.xor_comm c0 c2)),
    preMixByte_eq_gfMul (congrArg double (BitVec.xor_comm c1 c3))⟩

theorem mixWord_preMixWord (c : Word4) :
    mixWord (preMixWord c) = circulant ⟨0x0E, 0x0B, 0x0D, 0x09⟩ c := by
  rw [mixWord_eq_circulant, preMixWord_eq_circulant, circulant_circulant]
  rfl

theorem mixWord_preMixWord_mixWord (c : Word4) : mixWord (preMixWord (mixWord c)) = c := by
  rw [mixWord_preMixWord, mixWord_eq_circulant, circulant_circulant]
  exact circulant_one c

theorem mixWord_xor (a b : Word4) : mixWord (a.xor b) = (mixWord a).xor (mixWord b) := by
  simp only [mixWord_eq_circulant, circulant_xor]

theorem mixWord_get (c : Word4) (i : Fin 4) : (mixWord c).get i =
    gfMul (c.get i) 0x02 ^^^ gfMul (c.get (i + 1)) 0x03 ^^^ c.get (i + 2) ^^^ c.get (i + 3) := by
  rw [mixWord_eq_circulant, circulant_get, gfMul_one_right, gfMul_one_right]

theorem mixWord_preMixWord_get (c : Word4) (i : Fin 4) : (mixWord (preMixWord c)).get i =
    gfMul (c.get i) 0x0E ^^^ gfMul (c.get (i + 1)) 0x0B ^^^ gfMul (c.get (i + 2)) 0x0D ^^^
      gfMul (c.get (i + 3)) 0x09 := by
  rw [mixWord_preMixWord, circulant_get]

/-- Settles O33: `MixWord` is the circulant matrix of 02 03 01 01. -/
theorem mixWordIsFieldMatrix : Obligations.MixWordIsFieldMatrix :=
  ⟨mixWord_get, mixWord_xor, rfl, rfl, rfl, rfl, rfl, rfl⟩

/-! ### The column mixes -/

theorem columnMix_transpose (m : Mat4) : columnMix (transpose m) = mixRows m := by
  rw [columnMix, transpose_transpose]

theorem invColumnMix_eq_mixRows (m : Mat4) : invColumnMix m = mixRows (preMixRows m) := by
  rw [invColumnMix, columnMix_transpose]

theorem mixRows_preMixRows_mixRows (m : Mat4) : mixRows (preMixRows (mixRows m)) = m := by
  simp only [mixRows, preMixRows, Mat4.mapRows, mixWord_preMixWord_mixWord]

theorem invColumnMix_columnMix (m : Mat4) : invColumnMix (columnMix m) = transpose m := by
  rw [invColumnMix_eq_mixRows, columnMix, mixRows_preMixRows_mixRows]

/-- Settles O34: the transposes cancel, and the two steps on a word multiply to one circulant matrix. -/
theorem inverseColumnMixForms : Obligations.InverseColumnMixForms :=
  ⟨fun m => ⟨rfl, invColumnMix_eq_mixRows m⟩, mixWord_preMixWord_get, mixWord_preMixWord_mixWord, rfl, rfl, rfl⟩

/-- An entry of `ColumnMix` combines the entries of one column (R132, R133). -/
theorem columnMix_get (m : Mat4) (i j : Fin 4) : (columnMix m).get i j =
    gfMul (m.get j i) 0x02 ^^^ gfMul (m.get (j + 1) i) 0x03 ^^^ m.get (j + 2) i ^^^ m.get (j + 3) i := by
  rw [columnMix, mixRows, Mat4.get_mapRows, mixWord_get]
  simp only [Mat4.get_row, transpose_get]

/-- An entry of `InvColumnMix` combines the entries of one row (R137). -/
theorem invColumnMix_get (m : Mat4) (i j : Fin 4) : (invColumnMix m).get i j =
    gfMul (m.get i j) 0x0E ^^^ gfMul (m.get i (j + 1)) 0x0B ^^^ gfMul (m.get i (j + 2)) 0x0D ^^^
      gfMul (m.get i (j + 3)) 0x09 := by
  rw [invColumnMix_eq_mixRows, mixRows, preMixRows, Mat4.mapRows_mapRows, Mat4.get_mapRows, Function.comp_apply,
    mixWord_preMixWord_get]
  simp only [Mat4.get_row]

/-! ### The commands that rearrange and mix -/

section
variable (s : State)

theorem exec_xpose : exec .xpose s = .next (afterUnit s (toBlock (transpose (toMatrix s.S)))) := rfl

theorem exec_shl : exec .shl s = .next (afterUnit s (toBlock (rowShiftLeft (toMatrix s.S)))) := rfl

theorem exec_shr : exec .shr s = .next (afterUnit s (toBlock (rowShiftRight (toMatrix s.S)))) := rfl

theorem exec_mix : exec .mix s = .next (afterUnit s (toBlock (columnMix (toMatrix s.S)))) := rfl

theorem exec_imix : exec .imix s = .next (afterUnit s (toBlock (invColumnMix (toMatrix s.S)))) := rfl

end

/-- Settles O9: each command is its transform on the matrix of `S`, read by index. -/
theorem columnMixCommandsComplete : Obligations.ColumnMixCommandsComplete := by
  refine ⟨rfl, rfl, columnMix_transpose, fun s => ⟨⟨_, exec_mix s, rfl, fun i j => ?_⟩,
    ⟨_, exec_imix s, rfl, fun i j => ?_⟩⟩⟩
  · rw [toBlock_get, columnMix_get]
    simp only [toMatrix_get]
    rfl
  · rw [toBlock_get, invColumnMix_get]
    simp only [toMatrix_get]
    rfl

/-- Settles O35: `IMIX` on the block that `MIX` leaves transposes, and `XPOSE` transposes back. -/
theorem columnMixesInvertUpToTranspose : Obligations.ColumnMixesInvertUpToTranspose := by
  refine ⟨invColumnMix_columnMix, mixRows_preMixRows_mixRows, fun s => ⟨_, _, _, exec_mix s, exec_imix _,
    exec_xpose _, ?_, ?_⟩⟩
  · simp only [afterUnit, toMatrix_toBlock, invColumnMix_columnMix]
  · simp only [afterUnit, toMatrix_toBlock, invColumnMix_columnMix, transpose_transpose, toBlock_toMatrix]

/-- Settles O8: each command is its transform on the matrix of `S`, read by index; a single 1 in the matrix shows
that four shifts are not the identity. -/
theorem rearrangingUnitCommandsComplete : Obligations.RearrangingUnitCommandsComplete := by
  refine ⟨rfl, rfl, rfl,
    fun m => ⟨transpose_transpose m, fun i => transpose_get m i i, rowShiftLeft_transpose m, rowShiftRight_transpose m⟩,
    ⟨unit01, by decide, by decide⟩,
    fun s => ⟨⟨_, exec_xpose s, rfl, fun i j => ?_⟩, ⟨_, exec_shl s, rfl, fun i j => ?_⟩,
      ⟨_, exec_shr s, rfl, fun i j => ?_⟩⟩⟩
  · rw [toBlock_get, transpose_get, toMatrix_get]
  · rw [toBlock_get, rowShiftLeft, rotRowsLeft_get, transpose_get, toMatrix_get]
    rfl
  · rw [toBlock_get, rowShiftRight, rotRowsRight_get, transpose_get, toMatrix_get]
    simp only [val_sub_eq_mod]

/-! ### Adding a round key -/

theorem xor_xor_cancel_right (a b : Byte) : a ^^^ b ^^^ b = a := by
  rw [BitVec.xor_assoc, BitVec.xor_self, BitVec.xor_zero]

theorem addRoundKey_get (m k : Mat4) (i j : Fin 4) : (addRoundKey m k).get i j = m.get i j ^^^ k.get i j :=
  Mat4.get_xor m k i j

theorem addRoundKey_addRoundKey (m k : Mat4) : addRoundKey (addRoundKey m k) k = m :=
  Mat4.ext_get fun i j => by rw [addRoundKey_get, addRoundKey_get, xor_xor_cancel_right]

theorem transpose_addRoundKey (m k : Mat4) :
    transpose (addRoundKey m k) = addRoundKey (transpose m) (transpose k) :=
  Mat4.ext_get fun i j => by simp only [transpose_get, addRoundKey_get]

/-- Settles O36, entry by entry. -/
theorem addRoundKeyLaws : Obligations.AddRoundKeyLaws :=
  fun m k => ⟨addRoundKey_addRoundKey m k, transpose_addRoundKey m k⟩

/-! ### `ADDKEY` -/

/-- Where the tag is set and sound, the schedule of the registers stands in `W` and the tag already. -/
theorem writeSchedule_of_valid {s : State} (h : TagSound s) (hl : ScheduleLegal s) (hv : s.KS_VALID = true) :
    writeSchedule s (s.KEYLEN.toNat / 4) s.ROUNDS.toNat = s := by
  have hW : overwriteLow s.W (currentSchedule s) = s.W := by
    rw [overwriteLow, currentSchedule_length hl, ← tagSound_take_W h hv, List.take_append_drop]
  rw [TagSound, if_pos hv, validate_of_legal hl] at h
  obtain ⟨htag, -⟩ := h
  obtain ⟨hnk, hr⟩ := Prod.mk.inj (Except.ok.inj htag)
  have hNK : BitVec.ofNat 8 (s.KEYLEN.toNat / 4) = s.KS_NK := by rw [hnk, BitVec.ofNat_toNat, BitVec.setWidth_eq]
  have hR : BitVec.ofNat 8 s.ROUNDS.toNat = s.KS_R := by rw [hr, BitVec.ofNat_toNat, BitVec.setWidth_eq]
  calc writeSchedule s (s.KEYLEN.toNat / 4) s.ROUNDS.toNat
      = { s with W := overwriteLow s.W (currentSchedule s), KS_VALID := true,
                 KS_NK := BitVec.ofNat 8 (s.KEYLEN.toNat / 4), KS_R := BitVec.ofNat 8 s.ROUNDS.toNat } := rfl
    _ = s := by rw [hW, hNK, hR, ← hv]

/-- Under a sound tag it makes no difference whether the schedule is written or found. -/
theorem ensureSchedule_of_tagSound {s : State} (h : TagSound s) (hl : ScheduleLegal s) :
    ensureSchedule s = .ok (writeSchedule s (s.KEYLEN.toNat / 4) s.ROUNDS.toNat) := by
  obtain ⟨t, ht⟩ := ensureSchedule_of_legal hl
  rw [ht]
  obtain ⟨-, ⟨rfl, hv⟩ | ⟨rfl, -⟩⟩ := ensureSchedule_ok ht
  · rw [writeSchedule_of_valid h hl hv]
  · rfl

/-- A command that needs the schedule goes on, under a sound tag, from the state with the schedule written. -/
theorem withSchedule_of_tagSound {s : State} (h : TagSound s) (hl : ScheduleLegal s)
    (body : State → Except ErrCode State) :
    withSchedule s body = body (writeSchedule s (s.KEYLEN.toNat / 4) s.ROUNDS.toNat) := by
  rw [withSchedule, ensureSchedule_of_tagSound h hl]

theorem slice_append {w : List Word4} {r : Nat} (h : 4 * r + 3 < w.length) (tail : List Word4) :
    slice (w ++ tail) r = slice w r := by
  simp (disch := omega) only [slice, List.getD_append]

/-- Reading a slice of the schedule RAM after the schedule has been written is reading the schedule. -/
theorem slice_writeSchedule {s : State} (hl : ScheduleLegal s) {n : Nat} (hn : n ≤ s.ROUNDS.toNat) (nk : Nat) :
    slice (writeSchedule s nk s.ROUNDS.toNat).W n = slice (currentSchedule s) n := by
  have hlast : 4 * n + 3 < (currentSchedule s).length := by
    rw [currentSchedule_length hl]
    omega
  exact slice_append hlast _

/-- The block with slice `r` of a schedule added, through its matrix (41_state_transforms.md R147). -/
def addSlice (b : Block) (w : List Word4) (r : Nat) : Block := toBlock (addRoundKey (toMatrix b) (slice w r))

theorem addSlice_eq_ofFn (b : Block) (w : List Word4) (r : Nat) : addSlice b w r =
    .ofFn fun k => b.get k ^^^ (w.getD (4 * r + k / 4) .zero).get ⟨k % 4, by omega⟩ := rfl

theorem addSlice_addSlice (b : Block) (w : List Word4) (r : Nat) : addSlice (addSlice b w r) w r = b := by
  rw [addSlice, addSlice, toMatrix_toBlock, addRoundKey_addRoundKey, toBlock_toMatrix]

section
variable {s : State} {n : Nat} (h : EngineInv s) (hl : ScheduleLegal s)
include h hl

theorem exec_addkey_of_le (hn : n ≤ s.ROUNDS.toNat) : exec (.addkey n) s =
    .next (afterSchedule s (addSlice s.S (currentSchedule s) n) (s.W.drop (4 * (s.ROUNDS.toNat + 1)))) := by
  obtain ⟨-, -, ht, -⟩ := h
  rw [exec, execAddkey, withSchedule_of_tagSound ht hl, writeSchedule_ROUNDS, if_neg (by omega), finish_ok, mapMatrix,
    slice_writeSchedule hl hn, writeSchedule_S, completeOk_writeSchedule hl, addSlice]

theorem exec_addkey_of_gt (hn : s.ROUNDS.toNat < n) : exec (.addkey n) s = .next (afterError s .eIndex) := by
  obtain ⟨-, -, ht, -⟩ := h
  rw [exec, execAddkey, withSchedule_of_tagSound ht hl, writeSchedule_ROUNDS, if_pos hn, finish_error, raiseErr_eq]

/-- The first `ADDKEY` keeps the invariant and the registers, so the second adds the same slice. -/
theorem exec_addkey_twice (hn : n ≤ s.ROUNDS.toNat) :
    ∃ t u, exec (.addkey n) s = .next t ∧ exec (.addkey n) t = .next u ∧ u.S = s.S := by
  have ht := exec_addkey_of_le h hl hn
  have hinv := engineInv_effect h (effect_of_exec ht)
  exact ⟨_, _, ht, exec_addkey_of_le hinv hl hn, addSlice_addSlice s.S (currentSchedule s) n⟩

end

/-- Settles O10: with legal registers `ADDKEY` adds its slice or refuses the index, else it ends with the error of
`Validate`. -/
theorem addkeyAppliesItsSlice : Obligations.AddkeyAppliesItsSlice := by
  refine fun s n h => ⟨encode_addkey,
    fun hl hn => ⟨⟨s.W.drop (4 * (s.ROUNDS.toNat + 1)), ?_⟩, exec_addkey_twice h hl hn⟩,
    fun e he => exec_of_validate_error trivial he, fun hl hn => exec_addkey_of_gt h hl hn⟩
  rw [exec_addkey_of_le h hl hn, addSlice_eq_ofFn]

end Sys2Proof.Machine
end

section
/-! SUPPORT. The key-schedule family: `KeyWords` and `Expand` word by word and as prefixes of each other, which
constants a schedule looks up, `EXPAND`, and the checks of `Validate` one by one. -/

namespace Sys2Proof.Machine

/-! ### `KeyWords` -/

/-- Word `j` of a key is its four bytes from `4*j` (R161). -/
theorem keyWords_getD : ∀ (key : List Byte) (j : Nat), j < key.length / 4 →
    (keyWords key).getD j .zero =
      ⟨key.getD (4 * j) 0, key.getD (4 * j + 1) 0, key.getD (4 * j + 2) 0, key.getD (4 * j + 3) 0⟩
  | _ :: _ :: _ :: _ :: _, 0, _ => rfl
  | _ :: _ :: _ :: _ :: rest, j + 1, h =>
    keyWords_getD rest j (by simp only [List.length_cons] at h; omega)
  | [], _, h | [_], _, h | [_, _], _, h | [_, _, _], _, h => absurd h (by simp)

/-! ### `extendSchedule` -/

section
variable (T : Tables) (nk : Nat)

theorem extendSchedule_succ (n : Nat) (w : List Word4) :
    extendSchedule T nk (n + 1) w = extendSchedule T nk n (w ++ [nextWord T nk w]) := rfl

theorem extendSchedule_add (m n : Nat) (w : List Word4) :
    extendSchedule T nk (m + n) w = extendSchedule T nk n (extendSchedule T nk m w) := by
  induction m generalizing w with
  | zero => rw [Nat.zero_add]; rfl
  | succ m ih => rw [Nat.succ_add, extendSchedule_succ, extendSchedule_succ, ih]

/-- Words are only appended: the first ones stay. -/
theorem prefix_extendSchedule (n : Nat) (w : List Word4) : w <+: extendSchedule T nk n w := by
  induction n generalizing w with
  | zero => exact List.prefix_rfl
  | succ n ih => exact (List.prefix_append w _).trans (ih _)

/-- Every appended word is the one that follows the words before it. -/
theorem extendSchedule_getD {n i : Nat} {w : List Word4} (hlo : w.length ≤ i) (hhi : i < w.length + n) :
    (extendSchedule T nk n w).getD i .zero = nextWord T nk ((extendSchedule T nk n w).take i) := by
  induction n generalizing w with
  | zero => omega
  | succ n ih =>
    rw [extendSchedule_succ]
    obtain rfl | hi := hlo.eq_or_lt
    · obtain ⟨tail, htail⟩ := prefix_extendSchedule T nk n (w ++ [nextWord T nk w])
      simp [← htail]
    · have hlen : (w ++ [nextWord T nk w]).length = w.length + 1 := List.length_append
      exact ih (by omega) (by omega)

/-- Tables that treat the previous word alike at every index of the appended words append the same words. -/
theorem extendSchedule_congr {T T' : Tables} {nk n : Nat} {w : List Word4}
    (h : ∀ i, w.length ≤ i → i < w.length + n → scheduleCore T' nk i = scheduleCore T nk i) :
    extendSchedule T' nk n w = extendSchedule T nk n w := by
  induction n generalizing w with
  | zero => rfl
  | succ n ih =>
    have hnext : nextWord T' nk w = nextWord T nk w := by
      rw [nextWord, h w.length le_rfl (by omega), nextWord]
    have hlen : (w ++ [nextWord T nk w]).length = w.length + 1 := List.length_append
    rw [extendSchedule_succ, extendSchedule_succ, hnext]
    exact ih fun i hlo hhi => h i (by omega) (by omega)

end

/-! ### `Expand` -/

theorem getD_take_of_lt {w : List Word4} {i j : Nat} (h : j < i) : (w.take i).getD j .zero = w.getD j .zero := by
  rw [List.getD_eq_getElem?_getD, List.getElem?_take_of_lt h, List.getD_eq_getElem?_getD]

section
variable (T : Tables) {key : List Byte} {nk : Nat} (hkey : key.length = 4 * nk)
include hkey

theorem keyWords_length_of_key : (keyWords key).length = nk := by rw [keyWords_length]; omega

/-- `Expand` with the number of key words named. -/
theorem expand_eq (R : Nat) : expand T key R = extendSchedule T nk (4 * (R + 1) - nk) (keyWords key) := by
  rw [expand, show key.length / 4 = nk by omega]

theorem expand_length_of_key {R : Nat} (hL : nk ≤ 4 * (R + 1)) : (expand T key R).length = 4 * (R + 1) :=
  expand_length (by omega)

theorem keyWords_prefix_expand (R : Nat) : keyWords key <+: expand T key R := by
  rw [expand_eq T hkey]
  exact prefix_extendSchedule T nk _ _

/-- R167 (b): more rounds only append words. -/
theorem expand_prefix_expand {R R' : Nat} (hL : nk ≤ 4 * (R + 1)) (hR : R ≤ R') :
    expand T key R <+: expand T key R' := by
  have hn : 4 * (R' + 1) - nk = (4 * (R + 1) - nk) + 4 * (R' - R) := by omega
  rw [expand_eq T hkey R', hn, extendSchedule_add, ← expand_eq T hkey R]
  exact prefix_extendSchedule T nk _ _

theorem expand_getD_of_lt (R : Nat) {j : Nat} (hj : j < nk) : (expand T key R).getD j .zero =
    ⟨key.getD (4 * j) 0, key.getD (4 * j + 1) 0, key.getD (4 * j + 2) 0, key.getD (4 * j + 3) 0⟩ := by
  have hlen : j < (keyWords key).length := by rwa [keyWords_length_of_key hkey]
  obtain ⟨tail, htail⟩ := keyWords_prefix_expand T hkey R
  rw [← htail, List.getD_append _ _ _ _ hlen, keyWords_getD key j (by omega)]

/-- The recurrence of R163 in one line, its three branches those of `scheduleCore`. -/
theorem expand_getD_of_le (hnk : 1 ≤ nk) {R i : Nat} (hlo : nk ≤ i) (hhi : i < 4 * (R + 1)) :
    (expand T key R).getD i .zero =
      (scheduleCore T nk i ((expand T key R).getD (i - 1) .zero)).xor ((expand T key R).getD (i - nk) .zero) := by
  have hwords := keyWords_length_of_key hkey
  have hlast : (expand T key R).getD i .zero = nextWord T nk ((expand T key R).take i) := by
    rw [expand_eq T hkey]
    exact extendSchedule_getD T nk (by omega) (by omega)
  have hlen : ((expand T key R).take i).length = i := by
    rw [List.length_take, expand_length_of_key T hkey (by omega)]
    omega
  rw [hlast, nextWord, hlen, getD_take_of_lt (by omega), getD_take_of_lt (by omega)]


end

/-- Settles O37: the key's words come first, and each later word takes the branch of its index. -/
theorem expandFollowsItsRecurrence : Obligations.ExpandFollowsItsRecurrence := by
  intro T key nk R hkey hnk _ hL
  refine ⟨expand_length_of_key T hkey hL, fun j hj => expand_getD_of_lt T hkey R hj, ?_⟩
  rintro i hlo hhi prev back rfl rfl
  rw [expand_getD_of_le T hkey hnk hlo hhi]
  refine ⟨fun h0 => ?_, fun h0 h6 h4 => ?_, fun h0 h64 => ?_⟩
  · rw [scheduleCore, if_pos h0]
  · rw [scheduleCore, if_neg h0, if_pos ⟨h6, h4⟩]
  · rw [scheduleCore, if_neg h0, if_neg h64]

/-- Settles O38, from the lengths and what each list begins with. -/
theorem expandLengthAndPrefix : Obligations.ExpandLengthAndPrefix := by
  intro T key nk R hkey _ _ hL
  have hlen := expand_length_of_key T hkey hL
  have hwords := keyWords_length_of_key hkey
  refine ⟨hlen, fun R' hR => ?_, ?_, hwords⟩
  · rw [← hlen]
    exact List.prefix_iff_eq_take.1 (expand_prefix_expand T hkey hL hR)
  · rw [← hwords]
    exact (List.prefix_iff_eq_take.1 (keyWords_prefix_expand T hkey R)).symm

/-! ### The constants a schedule looks up -/

theorem rcon_flatten_length : romTables.rcon.flatten.length = 256 :=
  List.length_flatten.trans rfl

/-- `RCON` as one list, entry by entry at its linear address (20_memory.md R50, R52). -/
theorem rcon_flatten_getElem? : ∀ j < 256, romTables.rcon.flatten[j]? = some (roundConstant romTables j) := by
  decide +kernel

/-- In the first 256 words the index of a constant lies in 1 to 255 (R164). -/
theorem constantIndex_bounds {nk i : Nat} (hnk : 1 ≤ nk) (hlo : nk ≤ i) (hhi : i ≤ 255) :
    1 ≤ i / nk ∧ i / nk ≤ 255 :=
  ⟨Nat.div_pos hlo hnk, (Nat.div_le_self i nk).trans hhi⟩

theorem subByte_congr {T T' : Tables} (hs : T'.sbox = T.sbox) : subByte T' = subByte T := by
  funext a
  rw [subByte, hs, subByte]

/-- What becomes of the previous word depends on `SBOX` and on the constant of its index only. -/
theorem scheduleCore_congr {T T' : Tables} (hs : T'.sbox = T.sbox) {nk i : Nat}
    (hc : roundConstant T' (i / nk) = roundConstant T (i / nk)) : scheduleCore T' nk i = scheduleCore T nk i := by
  funext t
  simp only [scheduleCore, addRcon, subWord, subByte_congr hs, hc]

/-- A schedule of at most 256 words reads the entries 1 to 255 of `RCON` only. -/
theorem expand_congr {T T' : Tables} {key : List Byte} {nk R : Nat} (hkey : key.length = 4 * nk) (hnk : 1 ≤ nk)
    (hL : nk ≤ 4 * (R + 1)) (hR : 4 * (R + 1) ≤ 256) (hs : T'.sbox = T.sbox)
    (hc : ∀ j, 1 ≤ j → j ≤ 255 → roundConstant T' j = roundConstant T j) : expand T' key R = expand T key R := by
  have hwords := keyWords_length_of_key hkey
  rw [expand_eq T' hkey, expand_eq T hkey]
  refine extendSchedule_congr fun i hlo hhi => scheduleCore_congr hs ?_
  obtain ⟨hpos, hmax⟩ := constantIndex_bounds (i := i) hnk (by omega) (by omega)
  exact hc (i / nk) hpos hmax

/-- With no word to append the schedule is the key. -/
theorem expand_eq_keyWords (T : Tables) {key : List Byte} {R : Nat} (hkey : key.length = 4 * (4 * (R + 1))) :
    expand T key R = keyWords key := by
  rw [expand_eq T hkey, Nat.sub_self]
  rfl

/-- Settles O39: a constant's index is a quotient of word indexes below 256. -/
theorem scheduleIndexFacts : Obligations.ScheduleIndexFacts := by
  refine ⟨rcon_flatten_length, fun nk i hnk hlo hhi => ?_,
    fun T T' key nk R hkey hnk _ hL hR hs hc => expand_congr hkey hnk hL hR hs hc,
    fun T key R hkey => expand_eq_keyWords T hkey⟩
  obtain ⟨hpos, hmax⟩ := constantIndex_bounds hnk hlo hhi
  exact ⟨hpos, hmax, rcon_flatten_getElem? _ (by omega)⟩

/-! ### `EXPAND` -/

theorem computeSchedule_of_legal {s : State} (h : ScheduleLegal s) :
    computeSchedule s = .ok (writeSchedule s (s.KEYLEN.toNat / 4) s.ROUNDS.toNat) := by
  rw [computeSchedule, validate_of_legal h]

theorem exec_expand (s : State) : exec .expand s = finish s (computeSchedule s) := rfl

theorem exec_expand_of_legal {s : State} (h : ScheduleLegal s) :
    exec .expand s = .next (afterSchedule s s.S (s.W.drop (4 * (s.ROUNDS.toNat + 1)))) := by
  rw [exec_expand, computeSchedule_of_legal h, finish_ok, ← completeOk_writeSchedule h]
  rfl

/-- Settles O11: `EXPAND` writes the schedule, or ends with the error of `Validate`. -/
theorem expandWritesTheSchedule : Obligations.ExpandWritesTheSchedule :=
  ⟨rfl, fun _ => ⟨fun hl => ⟨_, exec_expand_of_legal hl⟩, fun _ he => exec_of_validate_error trivial he⟩⟩

/-! ### The checks of `Validate` -/

section
variable {s : State}

theorem validate_of_malformed (h : ¬ KeylenFormed s) : validate s = .error .eKeylen := by
  rw [KeylenFormed] at h
  exact if_pos (by omega)

variable (hf : KeylenFormed s)
include hf

theorem validate_of_keyTooLong (h : s.KEYLEN.toNat / 4 > s.params.nkMax) : validate s = .error .eRange := by
  rw [validate, if_neg (by omega), if_pos h]

variable (hnk : s.KEYLEN.toNat / 4 ≤ s.params.nkMax)
include hnk

theorem validate_of_noRounds (h : s.ROUNDS = 0) : validate s = .error .eRounds := by
  have hzero : s.ROUNDS.toNat = 0 := by rw [h]; rfl
  rw [validate, if_neg (by omega), if_neg (by omega), if_pos hzero]

theorem validate_of_tooManyRounds (h : s.ROUNDS.toNat > s.params.rMax) : validate s = .error .eRange := by
  rw [validate, if_neg (by omega), if_neg (by omega), if_neg (by omega), if_pos h]

theorem validate_of_tooFewRounds (h0 : s.ROUNDS ≠ 0) (hr : s.ROUNDS.toNat ≤ s.params.rMax)
    (h : 4 * (s.ROUNDS.toNat + 1) < s.KEYLEN.toNat / 4) : validate s = .error .eRounds := by
  have hpos : s.ROUNDS.toNat ≠ 0 := BitVec.toNat_ne.1 h0
  rw [validate, if_neg (by omega), if_neg (by omega), if_neg hpos, if_neg (by omega), if_pos h]

end

/-- After a successful validation the sizes are in range, and the schedule fits the RAM (R160). -/
theorem sizes_of_validate_ok {s : State} (hp : s.params.ok) {nk R : Nat} (h : validate s = .ok (nk, R)) :
    ScheduleLegal s ∧ nk = s.KEYLEN.toNat / 4 ∧ R = s.ROUNDS.toNat ∧ 1 ≤ nk ∧ nk ≤ s.params.nkMax ∧
      1 ≤ R ∧ R ≤ s.params.rMax ∧ nk ≤ 4 * (R + 1) ∧ 4 * (R + 1) ≤ s.params.wDepth ∧ s.params.wDepth ≤ 256 := by
  obtain ⟨hl, hsizes⟩ := (validate_ok_iff _ _).1 h
  obtain ⟨rfl, rfl⟩ := Prod.mk.inj hsizes
  have ⟨⟨hne, hmod⟩, hnk, hpos, hr, hL⟩ := hl
  obtain ⟨-, -, -, hrMax⟩ := hp
  rw [Params.wDepth]
  exact ⟨hl, rfl, rfl, by omega, hnk, hpos, hr, hL, by omega, by omega⟩

/-- Settles O17, check by check. -/
theorem validationChecksInOrder : Obligations.ValidationChecksInOrder :=
  fun _ hp => ⟨validate_of_malformed, validate_of_keyTooLong, validate_of_noRounds,
    fun hf hnk _ => validate_of_tooManyRounds hf hnk, validate_of_tooFewRounds, validate_of_legal,
    fun _ _ => sizes_of_validate_ok hp⟩

end Sys2Proof.Machine
end

section
/-! SUPPORT. The forward-pipeline family: `EncryptM` round by round, and what a command that sends `S` through a
pipeline answers. -/

namespace Sys2Proof.Machine

/-! ### The rounds of `EncryptM` -/

section
variable (T : Tables) (m : Mat4) (w : List Word4) (n : Nat)

theorem forwardRounds_succ :
    forwardRounds T w (n + 1) m = forwardRound T (slice w (n + 1)) (forwardRounds T w n m) := rfl

/-- With `n + 1` rounds, `n` full rounds stand between key 0 and the final round (R191). -/
theorem encryptM_succ : encryptM T m w (n + 1) =
    finalRound T (slice w (n + 1)) (forwardRounds T w n (addRoundKey m (slice w 0))) := rfl

/-- One round more is one full round before the final round (R191). -/
theorem encryptM_succ_succ : encryptM T m w (n + 2) = finalRound T (slice w (n + 2))
    (forwardRound T (slice w (n + 1)) (forwardRounds T w n (addRoundKey m (slice w 0)))) := by
  rw [encryptM_succ, forwardRounds_succ]

end

/-- Settles O40: the state before the final round is the one after the full rounds. -/
theorem forwardPipelineUnrolls : Obligations.ForwardPipelineUnrolls := by
  refine fun T m w => ⟨encryptM_succ T m w 0, fun R hR => ?_⟩
  obtain ⟨n, rfl⟩ := Nat.exists_eq_add_of_le' hR
  exact ⟨forwardRounds T w n (addRoundKey m (slice w 0)), encryptM_succ T m w n, encryptM_succ_succ T m w n⟩

/-! ### Pipeline commands -/

/-- After the schedule has been written, the words in use are the schedule of the registers. -/
theorem usedSchedule_writeSchedule {s : State} (hl : ScheduleLegal s) (nk : Nat) :
    usedSchedule (writeSchedule s nk s.ROUNDS.toNat) = currentSchedule s := by
  rw [usedSchedule, writeSchedule_ROUNDS, ← currentSchedule_length hl]
  exact take_overwriteLow s.W (currentSchedule s)

/-- A command that sends `S` through a pipeline `F` (of the schedule words, the round count and the matrix) answers,
under a sound tag, the state with the schedule of the registers written and `S` replaced under that schedule,
whether or not the tag was set (R195, R215). -/
theorem finish_pipeline {s : State} (h : TagSound s) (hl : ScheduleLegal s)
    (F : List Word4 → Nat → Mat4 → Mat4) :
    finish s (withSchedule s fun t => .ok (mapMatrix (F (usedSchedule t) t.ROUNDS.toNat) t)) =
      .next (afterSchedule s (toBlock (F (currentSchedule s) s.ROUNDS.toNat (toMatrix s.S)))
        (s.W.drop (4 * (s.ROUNDS.toNat + 1)))) := by
  rw [withSchedule_of_tagSound h hl, finish_ok, usedSchedule_writeSchedule hl, mapMatrix, writeSchedule_ROUNDS,
    writeSchedule_S, completeOk_writeSchedule hl]

/-! ### `ENCRYPT` -/

theorem exec_encrypt_of_legal {s : State} (h : TagSound s) (hl : ScheduleLegal s) :
    exec .encrypt s = .next (afterSchedule s
      (encryptBlock romTables s.S (s.KEY.take s.KEYLEN.toNat) s.ROUNDS.toNat)
      (s.W.drop (4 * (s.ROUNDS.toNat + 1)))) :=
  finish_pipeline h hl fun w R m => encryptM romTables m w R

/-- Settles O12: with legal registers `ENCRYPT` is the forward pipeline under the schedule of the registers, else
it ends with the error of `Validate`. -/
theorem encryptReplacesBlock : Obligations.EncryptReplacesBlock := by
  refine ⟨rfl, fun s h => ⟨fun hl => ⟨s.W.drop (4 * (s.ROUNDS.toNat + 1)), ?_⟩,
    fun e he => exec_of_validate_error trivial he⟩⟩
  obtain ⟨-, -, htag, -⟩ := h
  exact exec_encrypt_of_legal htag hl

end Sys2Proof.Machine
end

section
/-! SUPPORT. The inverse-pipeline family: one inverse round against one forward round, `DecryptM` against `EncryptM`,
and the two commands one after the other. -/

namespace Sys2Proof.Machine

/-! ### One inverse round undoes one forward round -/

/-- The substitutions work entry by entry. -/
theorem transpose_subBytes (T : Tables) (m : Mat4) : transpose (subBytes T m) = subBytes T (transpose m) := rfl

section
variable {T : Tables} (hT : ∀ a, invSubByte T (subByte T a) = a)
include hT

/-- What ends an inverse round undoes the substitution and the row shift, up to a transpose. -/
theorem undoShiftSub_transpose_rowShiftLeft_subBytes (m : Mat4) :
    undoShiftSub T (transpose (rowShiftLeft (subBytes T m))) = transpose m := by
  rw [undoShiftSub, rowShiftRight_transpose_rowShiftLeft, transpose_subBytes, invSubBytes_subBytes hT]

theorem undoShiftSub_addRoundKey_finalRound (m k : Mat4) :
    undoShiftSub T (addRoundKey (finalRound T k m) k) = transpose m := by
  rw [finalRound, addRoundKey_addRoundKey, undoShiftSub_transpose_rowShiftLeft_subBytes hT]

theorem inverseRound_transpose_forwardRound (m k : Mat4) :
    inverseRound T k (transpose (forwardRound T k m)) = transpose m := by
  rw [inverseRound, transpose_transpose, forwardRound, addRoundKey_addRoundKey, invColumnMix_columnMix,
    undoShiftSub_transpose_rowShiftLeft_subBytes hT]

end

theorem addRoundKey_transpose_transpose_addRoundKey (m k : Mat4) :
    addRoundKey (transpose (transpose (addRoundKey m k))) k = m := by
  rw [transpose_transpose, addRoundKey_addRoundKey]

/-- Settles O41, lemma by lemma. -/
theorem inverseRoundsUndoForwardRounds : Obligations.InverseRoundsUndoForwardRounds :=
  fun _ hT => ⟨undoShiftSub_addRoundKey_finalRound hT, inverseRound_transpose_forwardRound hT,
    addRoundKey_transpose_transpose_addRoundKey⟩

/-! ### `DecryptM` and `EncryptM` -/

section
variable {T : Tables} (hT : ∀ a, invSubByte T (subByte T a) = a) (w : List Word4)
include hT

/-- The inverse rounds take the slices in the opposite order, so the first of them meets the last forward round. -/
theorem inverseRounds_transpose_forwardRounds (n : Nat) (m : Mat4) :
    inverseRounds T w n (transpose (forwardRounds T w n m)) = transpose m := by
  induction n with
  | zero => rfl
  | succ n ih => rw [forwardRounds_succ, inverseRounds, inverseRound_transpose_forwardRound hT, ih]

theorem decryptM_encryptM (R : Nat) (m : Mat4) : decryptM T (encryptM T m w R) w R = m := by
  rw [decryptM, encryptM, undoShiftSub_addRoundKey_finalRound hT, inverseRounds_transpose_forwardRounds hT,
    addRoundKey_transpose_transpose_addRoundKey]

end

/-- A matrix is its sixteen bytes. -/
theorem finite_mat4 : Finite Mat4 :=
  Finite.of_injective Mat4.get fun _ _ h => Mat4.ext_get fun i j => congrFun (congrFun h i) j

/-- A left inverse on the finitely many matrices is a right inverse. -/
theorem encryptM_decryptM {T : Tables} (hT : ∀ a, invSubByte T (subByte T a) = a) (w : List Word4) (R : Nat)
    (m : Mat4) : encryptM T (decryptM T m w R) w R = m :=
  have hleft : Function.LeftInverse (decryptM T · w R) (encryptM T · w R) := decryptM_encryptM hT w R
  have : Finite Mat4 := finite_mat4
  hleft.rightInverse_of_surjective (Finite.injective_iff_surjective.1 hleft.injective) m

/-- Settles O42: round by round in one direction, and by finiteness in the other, which needs the first equation of the
tables only. -/
theorem pipelinesInvertForAnyTables : Obligations.PipelinesInvertForAnyTables :=
  fun _ hT _ m w R _ => ⟨decryptM_encryptM hT w R m, encryptM_decryptM hT w R m⟩

/-! ### `Decrypt` and `Encrypt` -/

section
variable (b : Block) (key : List Byte) (R : Nat)

theorem decryptBlock_encryptBlock :
    decryptBlock romTables (encryptBlock romTables b key R) key R = b := by
  rw [decryptBlock, encryptBlock, toMatrix_toBlock, decryptM_encryptM invSubByte_subByte, toBlock_toMatrix]

theorem encryptBlock_decryptBlock :
    encryptBlock romTables (decryptBlock romTables b key R) key R = b := by
  rw [encryptBlock, decryptBlock, toMatrix_toBlock, encryptM_decryptM invSubByte_subByte, toBlock_toMatrix]

end

/-! ### `DECRYPT`, and the two commands in either order -/

theorem exec_decrypt_of_legal {s : State} (h : TagSound s) (hl : ScheduleLegal s) :
    exec .decrypt s = .next (afterSchedule s
      (decryptBlock romTables s.S (s.KEY.take s.KEYLEN.toNat) s.ROUNDS.toNat)
      (s.W.drop (4 * (s.ROUNDS.toNat + 1)))) :=
  finish_pipeline h hl fun w R m => decryptM romTables m w R

/-- With legal registers the command `i` replaces `S` by `f` of it, of the key in use and of the round count (R195,
R215). -/
def ReplacesBlock (i : Instr) (f : Block → List Byte → Nat → Block) : Prop :=
  ∀ s : State, EngineInv s → ScheduleLegal s → ∃ tail,
    exec i s = .next (afterSchedule s (f s.S (s.KEY.take s.KEYLEN.toNat) s.ROUNDS.toNat) tail)

theorem replacesBlock_encrypt : ReplacesBlock .encrypt (encryptBlock romTables) :=
  fun _ ⟨_, _, htag, _⟩ hl => ⟨_, exec_encrypt_of_legal htag hl⟩

theorem replacesBlock_decrypt : ReplacesBlock .decrypt (decryptBlock romTables) :=
  fun _ ⟨_, _, htag, _⟩ hl => ⟨_, exec_decrypt_of_legal htag hl⟩

/-- Settles O13: with legal registers `DECRYPT` is the inverse pipeline under the schedule of the registers, else it
ends with the error of `Validate`. -/
theorem decryptReplacesBlock : Obligations.DecryptReplacesBlock :=
  ⟨rfl, fun s h => ⟨replacesBlock_decrypt s h, fun _ he => exec_of_validate_error trivial he⟩⟩

/-- The first command keeps the invariant, the key and the round count, so the second undoes what it did to `S`. -/
theorem exec_exec_restores_S {i j : Instr} {f g : Block → List Byte → Nat → Block} (hi : ReplacesBlock i f)
    (hj : ReplacesBlock j g) (hgf : ∀ b key R, g (f b key R) key R = b) {s : State} (h : EngineInv s)
    (hl : ScheduleLegal s) : ∃ t u, exec i s = .next t ∧ exec j t = .next u ∧ u.S = s.S := by
  obtain ⟨tail, ht⟩ := hi s h hl
  have hinv := engineInv_effect h (effect_of_exec ht)
  obtain ⟨tail', hu⟩ := hj _ hinv hl
  exact ⟨_, _, ht, hu, hgf _ _ _⟩

/-- Settles O43: the functions invert each other, and each command is its function under the same key. -/
theorem roundTripRestoresBlock : Obligations.RoundTripRestoresBlock :=
  ⟨fun b key _ R _ _ _ _ => ⟨decryptBlock_encryptBlock b key R, encryptBlock_decryptBlock b key R⟩,
    fun _ h hl =>
      ⟨exec_exec_restores_S replacesBlock_encrypt replacesBlock_decrypt decryptBlock_encryptBlock h hl,
        exec_exec_restores_S replacesBlock_decrypt replacesBlock_encrypt encryptBlock_decryptBlock h hl⟩⟩

end Sys2Proof.Machine
end

section
/-! SUPPORT. The system family: the two system commands, the end of every command, and messages cut into blocks. -/

namespace Sys2Proof.Machine

/-! ### The system commands, and the end of every command -/

section
variable (s : State)

theorem exec_nop : exec .nop s = .next (afterUnit s s.S) := rfl

theorem exec_reset : exec .reset s = .next (resetEngine s) := rfl

theorem hostAct_rst : hostAct .rst s = .next (resetEngine s) := rfl

/-- `STATUS` shows the tag and the flags alone, which are those of the reset state (R44). -/
theorem statusWord_resetEngine : statusWord (resetEngine s) = 0 := statusWord_resetOf s.params

end

/-- Settles O14: `NOP` applies no update, and the word 0 that an accepted write latches is its encoding. -/
theorem nopOnlyCompletes : Obligations.NopOnlyCompletes := by
  refine ⟨rfl, fun s => ⟨exec_nop s, fun hb => ?_⟩⟩
  rw [writeReg_of_idle hb]
  exact ⟨rfl, rfl, rfl, decode_encode (i := .nop) trivial⟩

/-- Settles O15: `RESET` and the reset input are one operation on the engine, whose fields are read off. -/
theorem resetCommandRestoresResetState : Obligations.ResetCommandRestoresResetState := by
  refine ⟨rfl, fun s => ⟨⟨_, exec_reset s, ?_⟩, (hostAct_rst s).trans (exec_reset s).symm,
    fun hb => writeReg_of_busy hb _ _⟩, fun s t i hi ht => ?_⟩
  · exact ⟨rfl, rfl, rfl, rfl, rfl, rfl, rfl, rfl, rfl, rfl, rfl, rfl, rfl, statusWord_resetEngine s, rfl, rfl⟩
  · obtain ⟨-, hkept⟩ := onlyResetClearsHostRegisters s t i ht
    exact (hkept hi).1

theorem ne_reset_of_needsSchedule {i : Instr} (h : NeedsSchedule i) : i ≠ .reset := by
  rintro rfl
  exact h

/-- Settles O20, by the four effects of a command: each clears `BUSY`, and all but the reset set `DONE`. -/
theorem everyCommandEnds : Obligations.EveryCommandEnds := by
  intro s i
  obtain ⟨t, ht, he⟩ := exec_effect i s
  refine ⟨t, ht, ?_⟩
  cases he with
  | error e needs => simp [ne_reset_of_needsSchedule needs]
  | unit b hi => simp [hi]
  | schedule b needs => simp [ne_reset_of_needsSchedule needs]
  | reset hi => simp [hi]

/-! ### The bytes of a list of blocks -/

theorem toList_ofFn (f : Fin 16 → Byte) : (Block.ofFn f).toList = List.ofFn f := by
  simp [Block.toList, Block.ofFn, List.ofFn_succ]

theorem exists_toList_eq {bytes : List Byte} (h : bytes.length = 16) : ∃ b : Block, b.toList = bytes :=
  ⟨.ofFn fun k => bytes.get (k.cast h.symm), by rw [toList_ofFn, ← List.ofFn_congr h, List.ofFn_get]⟩

theorem length_flatMap_toList (bs : List Block) : (bs.flatMap Block.toList).length = 16 * bs.length := by
  simp [List.length_flatMap, Block.toList, mul_comm]

/-- Sixteen bytes at a time, a message of `16 * n` bytes is the bytes of blocks. -/
theorem exists_blocks : ∀ (n : Nat) {msg : List Byte}, msg.length = 16 * n →
    ∃ bs : List Block, msg = bs.flatMap Block.toList
  | 0, _, h => ⟨[], List.eq_nil_of_length_eq_zero h⟩
  | n + 1, msg, h => by
    obtain ⟨b, hb⟩ := exists_toList_eq (bytes := msg.take 16) (by rw [List.length_take]; omega)
    obtain ⟨bs, hbs⟩ := exists_blocks n (msg := msg.drop 16) (by rw [List.length_drop]; omega)
    exact ⟨b :: bs, by rw [List.flatMap_cons, hb, ← hbs, List.take_append_drop]⟩

/-- A message of a well-formed length is the bytes of at least one block (R235). -/
theorem exists_blocks_of_wellFormed {msg : List Byte} (h0 : msg.length ≠ 0) (h16 : msg.length % 16 = 0) :
    ∃ bs : List Block, bs ≠ [] ∧ msg = bs.flatMap Block.toList := by
  obtain ⟨bs, rfl⟩ := exists_blocks (msg.length / 16) (by omega : msg.length = 16 * (msg.length / 16))
  refine ⟨bs, ?_, rfl⟩
  rintro rfl
  exact h0 rfl

/-! ### Splitting a message -/

theorem splitBlocks_toList_append (b : Block) (rest : List Byte) :
    splitBlocks (b.toList ++ rest) = (splitBlocks rest).map (b :: ·) := rfl

theorem splitBlocks_flatMap_toList : ∀ bs : List Block, splitBlocks (bs.flatMap Block.toList) = some bs
  | [] => rfl
  | b :: bs => by
    rw [List.flatMap_cons, splitBlocks_toList_append, splitBlocks_flatMap_toList bs, Option.map_some]

theorem eq_flatMap_of_splitBlocks {msg : List Byte} {bs : List Block} (h : splitBlocks msg = some bs) :
    msg = bs.flatMap Block.toList := by
  fun_induction splitBlocks msg generalizing bs with
  | case1 =>
    cases h
    rfl
  | case2 a0 a1 a2 a3 a4 a5 a6 a7 a8 a9 a10 a11 a12 a13 a14 a15 rest ih =>
    obtain ⟨cs, hcs, rfl⟩ := Option.map_eq_some_iff.1 h
    rw [ih hcs]
    rfl
  | case3 => cases h

theorem splitBlocks_of_malformed {msg : List Byte} (h : msg.length % 16 ≠ 0) : splitBlocks msg = none := by
  refine Option.eq_none_iff_forall_ne_some.2 fun bs hs => h ?_
  rw [eq_flatMap_of_splitBlocks hs, length_flatMap_toList, Nat.mul_mod_right]

/-! ### A block function on a message -/

section
variable (f : Block → Block)

theorem onMessage_of_malformed {msg : List Byte} (h : msg.length = 0 ∨ msg.length % 16 ≠ 0) :
    onMessage f msg = none := by
  obtain h | h := h
  · rw [List.eq_nil_of_length_eq_zero h]
    rfl
  · have hne : msg ≠ [] := by
      rintro rfl
      exact h rfl
    rw [onMessage, messageBlocks, if_neg hne, splitBlocks_of_malformed h, Option.map_none]

theorem onMessage_flatMap_toList {bs : List Block} (h : bs ≠ []) :
    onMessage f (bs.flatMap Block.toList) = some (bs.flatMap fun b => (f b).toList) := by
  have hne : bs.flatMap Block.toList ≠ [] := by
    have hlen := length_flatMap_toList bs
    have hpos := List.length_pos_iff.2 h
    exact List.length_pos_iff.1 (by omega)
  rw [onMessage, messageBlocks, if_neg hne, splitBlocks_flatMap_toList, Option.map_some]

end

/-- A left inverse on blocks is one on messages: the first function's answer is again the bytes of blocks. -/
theorem onMessage_bind_onMessage {f g : Block → Block} (hgf : ∀ b, g (f b) = b) {msg : List Byte}
    (h0 : msg.length ≠ 0) (h16 : msg.length % 16 = 0) : (onMessage f msg).bind (onMessage g) = some msg := by
  obtain ⟨bs, hbs, rfl⟩ := exists_blocks_of_wellFormed h0 h16
  have hmap : (bs.flatMap fun b => (f b).toList) = (bs.map f).flatMap Block.toList := by rw [List.flatMap_map]
  rw [onMessage_flatMap_toList f hbs, Option.bind_some, hmap, onMessage_flatMap_toList g (by simpa using hbs),
    List.flatMap_map]
  simp only [hgf]

/-- Settles O44: both functions apply a block function to each block of the message, and the block functions invert
each other (R214). -/
theorem messagesAreProcessedBlockByBlock : Obligations.MessagesAreProcessedBlockByBlock := by
  refine fun key R => ⟨fun msg h => ⟨onMessage_of_malformed _ h, onMessage_of_malformed _ h⟩, fun msg h0 h16 => ?_,
    fun bs h => ⟨onMessage_flatMap_toList _ h, onMessage_flatMap_toList _ h⟩,
    fun msg h0 h16 _ => onMessage_bind_onMessage (decryptBlock_encryptBlock · key R) h0 h16⟩
  obtain ⟨bs, hbs, rfl⟩ := exists_blocks_of_wellFormed h0 h16
  exact ⟨bs, hbs, rfl, (length_flatMap_toList bs).symm⟩

end Sys2Proof.Machine
end

section
/-! SUPPORT. The exceptions family: how the index check of `ADDKEY` ends, and which errors a command can end with. -/

namespace Sys2Proof.Machine

theorem ensureSchedule_ROUNDS {s u : State} (h : ensureSchedule s = .ok u) : u.ROUNDS = s.ROUNDS := by
  obtain ⟨-, ⟨rfl, -⟩ | ⟨rfl, -⟩⟩ := ensureSchedule_ok h <;> rfl

/-- With legal registers `ADDKEY n` goes on to its index check (R147), in any state: no invariant is needed. -/
theorem exec_addkey_of_ensureSchedule {s u : State} (h : ensureSchedule s = .ok u) (n : Nat) :
    exec (.addkey n) s = finish s (if n > s.ROUNDS.toNat then .error .eIndex
      else .ok (mapMatrix (fun m => addRoundKey m (slice u.W n)) u)) := by
  rw [exec, execAddkey, withSchedule, h, ← ensureSchedule_ROUNDS h]

section
variable {s : State} {n : Nat} (hl : ScheduleLegal s)
include hl

theorem exec_addkey_eIndex_of_gt (hn : n > s.ROUNDS.toNat) :
    exec (.addkey n) s = .next (afterError s .eIndex) := by
  obtain ⟨u, hu⟩ := ensureSchedule_of_legal hl
  rw [exec_addkey_of_ensureSchedule hu, if_pos hn, finish_error, raiseErr_eq]

theorem gt_ROUNDS_of_exec_addkey_eIndex {t : State} (h : exec (.addkey n) s = .next t) (he : t.ERRCODE = .eIndex) :
    n > s.ROUNDS.toNat := by
  by_contra hn
  obtain ⟨u, hu⟩ := ensureSchedule_of_legal hl
  rw [exec_addkey_of_ensureSchedule hu, if_neg hn, finish_ok] at h
  cases h
  cases he

end

/-! ### The order of the checks -/

/-- Settles O18: the checks of `Validate` in their order, each passed on by the command, then the index check. -/
theorem firstFailingCheckIsReported : Obligations.FirstFailingCheckIsReported := by
  refine fun s => ⟨coreStep_of_decode_error, fun i hi hneeds => ?_⟩
  have raises {e : ErrCode} (h : validate s = .error e) : exec i s = .next (afterError s e) :=
    exec_of_validate_error hneeds h
  rw [coreStep_of_decode_ok hi]
  refine ⟨fun hf => raises (validate_of_malformed hf),
    fun hf hnk => raises (validate_of_keyTooLong hf hnk),
    fun hf hnk h0 => raises (validate_of_noRounds hf hnk h0),
    fun hf hnk _ hr => raises (validate_of_tooManyRounds hf hnk hr),
    fun hf hnk h0 hr hL => raises (validate_of_tooFewRounds hf hnk h0 hr hL), ?_⟩
  rintro hl n rfl hn
  exact exec_addkey_eIndex_of_gt hl hn

/-! ### The codes and who raises them -/

theorem errBits_le_five (e : ErrCode) : (errBits e).toNat ≤ 5 := by
  cases e <;> decide

/-- How a command can end: without error, or, where it needs the schedule, with the error of `Validate` or of the index
check of `ADDKEY`. -/
theorem ERRCODE_of_exec {i : Instr} {s t : State} (h : exec i s = .next t) :
    t.ERRCODE = .eNone ∨ NeedsSchedule i ∧ (validate s = .error t.ERRCODE ∨
      t.ERRCODE = .eIndex ∧ ∃ n, i = .addkey n ∧ n > s.ROUNDS.toNat) := by
  cases effect_of_exec h with
  | error e needs cause =>
    refine .inr ⟨needs, cause.imp_right ?_⟩
    rintro ⟨hl, rfl, n, rfl⟩
    exact ⟨rfl, n, rfl, gt_ROUNDS_of_exec_addkey_eIndex hl h rfl⟩
  | unit b => exact .inl rfl
  | schedule b => exact .inl rfl
  | reset => exact .inl rfl

theorem ERRCODE_ne_eCmd_of_exec {i : Instr} {s t : State} (h : exec i s = .next t) : t.ERRCODE ≠ .eCmd := by
  obtain hnone | ⟨-, hval | ⟨hindex, -⟩⟩ := ERRCODE_of_exec h
  · simp [hnone]
  · obtain ⟨he, -⟩ | ⟨he, -⟩ | ⟨he, -⟩ := validate_error_cause hval <;> simp [he]
  · simp [hindex]

/-- The core's step ends with `E_CMD` on an illegal word and on no other (R251). -/
theorem ERRCODE_eq_eCmd_iff_of_coreStep {s t : State} (h : coreStep s = .next t) :
    t.ERRCODE = .eCmd ↔ ∃ e, decode s.CMDR = .error e := by
  cases hd : decode s.CMDR with
  | ok i =>
    rw [coreStep_of_decode_ok hd] at h
    simp [ERRCODE_ne_eCmd_of_exec h]
  | error e =>
    rw [coreStep_of_decode_error ⟨e, hd⟩] at h
    cases h
    exact iff_of_true rfl ⟨e, rfl⟩

/-- Settles O19: a command ends without error, with one of the three errors of `Validate`, or with `E_INDEX`. -/
theorem errorCodesAndTheirRaisers : Obligations.ErrorCodesAndTheirRaisers := by
  refine ⟨⟨rfl, rfl, rfl, rfl, rfl, rfl, errBits_le_five⟩, fun p v s hb => ⟨rfl, ?_⟩,
    fun s t => ERRCODE_eq_eCmd_iff_of_coreStep, fun s t i h => ⟨ERRCODE_ne_eCmd_of_exec h, ?_⟩⟩
  · rw [writeReg_of_idle hb]
    rfl
  · obtain hnone | ⟨needs, hval | ⟨hindex, hn⟩⟩ := ERRCODE_of_exec h
    · simp [hnone]
    · obtain ⟨he, hc⟩ | ⟨he, hc⟩ | ⟨he, hc⟩ := validate_error_cause hval
      · simp [he, needs, hc]
      · simpa [he, needs, ← BitVec.toNat_inj] using hc
      · simpa [he, needs] using hc
    · simp [hindex, needs, hn]

end Sys2Proof.Machine
end

section
/-! SUPPORT. The progress family: a host's turn while a command runs brings the core's step one action nearer. -/

namespace Sys2Proof.Machine

/-! ### The host's turn while a command runs -/

/-- While a command runs, an expressible action answers, keeps the count, and at most puts itself back on the script:
the `WAIT` that polls `BUSY = 1` does (30_encoding.md R80). -/
theorem hostAct_next_of_busy {a : HostAction} {s : State} (hb : s.BUSY = true) (hrst : a ≠ .rst)
    (ha : Expressible a) :
    ∃ t, hostAct a s = .next t ∧ t.lag = s.lag ∧ t.script ⊆ a :: s.script := by
  cases a with
  | read size offset =>
    obtain ⟨n, v, hread⟩ := readReg_eq_logRead s offset (regAt s.params offset)
    refine ⟨_, hostAct_read s ha, ?_⟩
    rw [hread]
    exact ⟨rfl, List.subset_cons_self _ _⟩
  | write size offset v =>
    refine ⟨_, hostAct_write s v ha, ?_⟩
    rw [writeReg_of_busy hb]
    exact ⟨rfl, List.subset_cons_self _ _⟩
  | wait =>
    refine ⟨pollStatus s, rfl, ?_, ?_⟩
    · rw [pollStatus, if_pos hb, readReg_settled (.inr rfl)]
      rfl
    · rw [pollStatus_script, if_pos hb]
      exact List.Subset.refl _
  | rst => exact absurd rfl hrst

/-- Where a command runs and it is not the core's turn, an action and the count for it are left. -/
theorem lag_ne_zero_and_script_of_not_coreMoves {s : State} (hb : s.BUSY = true) (hc : coreMoves s = false) :
    s.lag ≠ 0 ∧ ∃ a rest, s.script = a :: rest := by
  simpa [coreMoves, hb, ← List.ne_nil_iff_exists_cons] using hc

/-- One step of the host while a command runs: the count goes down by one, the engine stays, and no action is pending
that was not before (70_reset_and_hazards.md R291, R292). -/
theorem step_next_of_busy_not_coreMoves {s : State} (hb : s.BUSY = true) (hc : coreMoves s = false)
    (hscript : ∀ a ∈ s.script, a ≠ .rst ∧ Expressible a) :
    ∃ t, step s = .next t ∧ t.lag + 1 = s.lag ∧ t.script ⊆ s.script ∧ SameEngine t s := by
  obtain ⟨hlag, a, rest, hs⟩ := lag_ne_zero_and_script_of_not_coreMoves hb hc
  obtain ⟨hrst, ha⟩ := hscript a (by simp [hs])
  obtain ⟨t, ht, htlag, htscript⟩ := hostAct_next_of_busy (s := takeAction s rest) hb hrst ha
  refine ⟨t, ?_, ?_, hs ▸ htscript, busyEngineIgnoresTheHost (takeAction s rest) t a hb hrst ht⟩
  · rw [step_of_not_coreMoves hc, hostTurn_cons hs, ht]
  · rw [htlag, takeAction_lag]
    omega

/-! ### Progress -/

theorem run_succ_of_step {M : Host.Core} {s t : M.State} (h : M.step s = .next t) (k : Nat) :
    Host.Core.run M (k + 1) s = Host.Core.run M k t := by
  rw [run_succ, h]

/-- Settles O55, by induction on the count `lag`: at 0 it is the core's turn, and each step of the host lowers it. -/
theorem coreTakesItsStepEventually : Obligations.CoreTakesItsStepEventually := by
  intro s
  induction hn : s.lag generalizing s with
  | zero => exact fun hb _ => ⟨0, s, Nat.le_refl 0, rfl, by simp [coreMoves, hb, hn], rfl⟩
  | succ n ih =>
    intro hb hscript
    cases hc : coreMoves s with
    | true => exact ⟨0, s, Nat.zero_le _, rfl, hc, rfl⟩
    | false =>
      obtain ⟨t, ht, hlag, hsub, hsame⟩ := step_next_of_busy_not_coreMoves hb hc hscript
      have hbt : t.BUSY = true := (congrArg State.BUSY hsame).trans hb
      obtain ⟨k, u, hk, hrun, hu, hut⟩ := ih t (by omega) hbt fun a ha => hscript a (hsub ha)
      have hrun' : Host.Core.run Sys2Proof.core (k + 1) s = .next u :=
        (run_succ_of_step (M := Sys2Proof.core) ht k).trans hrun
      exact ⟨k + 1, u, Nat.succ_le_succ hk, hrun', hu, hut.trans hsame⟩

end Sys2Proof.Machine
end
